-- ==== Sys2Proof/Word.lean ====
section
/-!
DEFINITION. The words of the UART echo controller: every value is an unsigned bit vector of the width the spec
gives it (00_scope R7, R13, R15); bit 0 is the least significant bit.
-/
namespace Sys2Proof

/-- An input or output byte (00_scope R7). -/
abbrev Byte := BitVec 8

/-- A baud rate in bits per second, and the argument field of a command word (00_scope R7, 30_encoding R74). -/
abbrev Rate := BitVec 32

/-- A command word: OP in bits 39..32, ARG in bits 31..0 (30_encoding R74). -/
abbrev CmdWord := BitVec 40

/-- The data of a response, and the value of the counter COUNT (00_scope R7, R13). -/
abbrev Data := BitVec 64

end Sys2Proof
end

