-- ==== Sys2Proof/Syntax.lean ====
section
/-!
DEFINITION. The commands of the UEC command set, version 1 (30_encoding R79): one constructor per row of
spec/opcode_table.json, its operand as the format of the row gives it (30_encoding R75 to R78). Also the causes of
an ILLEGAL response (60_exceptions R191).
-/
namespace Sys2Proof

/-- A command (30_encoding R79). Every value of every operand is legal (30_encoding R78), so every term of this type
is a well-formed instruction. -/
inductive Instr where
  /-- PROC BYTE: process one received byte (40_echo R110). -/
  | proc (byte : Byte)
  /-- RDCNT: read the processed-byte counter (41_query R140). -/
  | rdcnt
  /-- RDBAUD: read the configured baud rate (41_query R141). -/
  | rdbaud
  /-- SETBAUD RATE: set the configured baud rate (42_config R162). -/
  | setbaud (rate : Rate)
  /-- RDLAST: read the last processed byte (41_query R142). -/
  | rdlast
  /-- INIT: construct with default settings (42_config R164). -/
  | init
  /-- INITB RATE: construct with an explicit baud rate (42_config R165). -/
  | initb (rate : Rate)
  /-- CLAMP RATE: evaluate the clamp (42_config R163). -/
  | clamp (rate : Rate)
  deriving DecidableEq, Repr

/-- Why a word encodes no command (60_exceptions R191). -/
inductive Cause where
  /-- The opcode is 0x00 or 0x09 to 0xFF (30_encoding R81). -/
  | unassignedOpcode
  /-- The opcode is assigned and a reserved operand bit is not 0 (30_encoding R82). -/
  | reservedBits
  deriving DecidableEq, Repr

end Sys2Proof
end

