-- ==== Sys2Proof/Decode.lean ====
section
/-!
DEFINITION. The decode function of 30_encoding R93, total over all 40-bit words and rejecting by cause, and after it
the encoder, written from the formats of 30_encoding R75 to R77 and the opcode map of R79.
-/
namespace Sys2Proof

/-- OP = cmd_word[39:32] (30_encoding R74). -/
def opOf (w : CmdWord) : BitVec 8 := w.extractLsb' 32 8

/-- ARG = cmd_word[31:0] (30_encoding R74). -/
def argOf (w : CmdWord) : Rate := w.extractLsb' 0 32

/-- BYTE = ARG[7:0], used as it is (30_encoding R76, R78). -/
def byteOf (arg : Rate) : Byte := arg.extractLsb' 0 8

/-- ARG[31:8], reserved in format FB (30_encoding R76). -/
def reservedOf (arg : Rate) : BitVec 24 := arg.extractLsb' 8 24

/-- The code of a cause (60_exceptions R191). -/
def Cause.code : Cause → BitVec 8
  | .unassignedOpcode => 0x01#8
  | .reservedBits => 0x02#8

/-- A word of format F0: the argument must be 0 (30_encoding R75, R82). -/
def decodeF0 (i : Instr) (arg : Rate) : Except Cause Instr :=
  if arg = 0#32 then .ok i else .error .reservedBits

/-- A word of format FB: bits 31..8 of the argument must be 0 (30_encoding R76, R82). -/
def decodeFB (mk : Byte → Instr) (arg : Rate) : Except Cause Instr :=
  if reservedOf arg = 0#24 then .ok (mk (byteOf arg)) else .error .reservedBits

/-- The decode function (30_encoding R93). The opcode is tested first (60_exceptions R194). -/
def decode (w : CmdWord) : Except Cause Instr :=
  match (opOf w).toNat with
  | 0x01 => decodeFB .proc (argOf w)
  | 0x02 => decodeF0 .rdcnt (argOf w)
  | 0x03 => decodeF0 .rdbaud (argOf w)
  | 0x04 => .ok (.setbaud (argOf w))
  | 0x05 => decodeF0 .rdlast (argOf w)
  | 0x06 => decodeF0 .init (argOf w)
  | 0x07 => .ok (.initb (argOf w))
  | 0x08 => .ok (.clamp (argOf w))
  | _ => .error .unassignedOpcode

/-- The word with opcode `op` and argument `arg` (30_encoding R74). -/
def mkWord (op : BitVec 8) (arg : Rate) : CmdWord := op ++ arg

/-- The word of a command (30_encoding R75 to R79). -/
def encode : Instr → CmdWord
  | .proc b => mkWord 0x01#8 (0#24 ++ b)
  | .rdcnt => mkWord 0x02#8 0#32
  | .rdbaud => mkWord 0x03#8 0#32
  | .setbaud r => mkWord 0x04#8 r
  | .rdlast => mkWord 0x05#8 0#32
  | .init => mkWord 0x06#8 0#32
  | .initb r => mkWord 0x07#8 r
  | .clamp r => mkWord 0x08#8 r

/-- The command word that a number stands for when its first `nbits` bits are given and the rest are 0: one 40-bit
word, bit 0 of the number being bit 0 of cmd_word (20_memory R51; log entry 16). -/
def tableWord (nbits w : Nat) : CmdWord := BitVec.ofNat 40 (w % 2 ^ nbits)

/-- The instruction that the decoder reads from a word numbered as spec/opcode_table.json numbers it. -/
def decodeTableWord (nbits w : Nat) : Option Instr :=
  match decode (tableWord nbits w) with
  | .ok i => some i
  | .error _ => none

end Sys2Proof
end

