-- ==== Sys2Proof/Config.lean ====
section
/-!
DEFINITION. What an implementation fixes (00_scope section 4). ECHO_MODE is a field of State, so that both builds are
states of one machine (log entry 3); CNT_OVF is open and is a constant without a body (log entry 4); LAT is a draw
per command and comes from the schedule (log entry 5). The baud-rate constants are in Machine/Params.lean.
-/
namespace Sys2Proof

/-- The build-time parameter ECHO_MODE (00_scope R10). -/
inductive EchoMode where
  /-- The four-rule classification of 40_echo R111 to R115: the default. -/
  | classify
  /-- Every byte is echoed unchanged (40_echo R116). -/
  | passthrough
  deriving DecidableEq, Repr

/-- The open parameter CNT_OVF (00_scope R11): what the counter does at its bound. -/
inductive CntOvf where
  /-- The counter goes to 0. -/
  | wrap
  /-- The counter stays at its bound. -/
  | saturate
  deriving DecidableEq, Repr, Inhabited

/-- CNT_OVF of the block: OPEN in the spec (00_scope R11, 90_conflicts C1). It has no body, so nothing can be proved
that depends on which of the two values it is (log entry 4; safe). -/
opaque Config.cntOvf : CntOvf

end Sys2Proof
end

