-- ==== Sys2Proof/Machine/Params.lean ====
section
/-!
DEFINITION. The baud-rate constants (00_scope R8), in bits per second. The source's literals are unaudited
(92_eei_decisions D26; log entry 12).
-/
namespace Sys2Proof.Machine

/-- MIN_BAUD (00_scope R8). -/
def minBaud : Rate := 9600#32

/-- MAX_BAUD (00_scope R8). -/
def maxBaud : Rate := 921600#32

/-- DEFAULT_BAUD (00_scope R8). -/
def defaultBaud : Rate := 115200#32

end Sys2Proof.Machine
end

