-- ==== Sys2Proof/Machine/State.lean ====
section
/-!
DEFINITION. The state of the block (10_state R20), its reset value (10_state R37), and the three ways a step can end.
The block has no registers beside these, no program counter, no memory (10_state R21, R22, R36; 20_memory R50).
-/
namespace Sys2Proof.Machine

/-- PHASE (10_state R29). Its fourth 2-bit encoding, 11, is never held and has no constructor (log entry 11). -/
inductive Phase where
  /-- Ready for a command. -/
  | idle
  /-- A command is accepted, its response not yet presented. -/
  | receiving
  /-- A response is presented and not yet taken. -/
  | echoing
  deriving DecidableEq, Repr

/-- What the host drives onto the input pins in one clock cycle (30_encoding R70). -/
structure Pins where
  /-- rst, synchronous and active high (70_reset_and_hazards R220). -/
  rst : Bool
  /-- cmd_valid. -/
  cmdValid : Bool
  /-- cmd_word. -/
  cmdWord : CmdWord
  /-- rsp_ready. -/
  rspReady : Bool
  deriving DecidableEq, Repr

/-- The values that the spec leaves open in one clock cycle. Nothing constrains them: a state may carry any of them,
and a claim about every state holds for every one of them. -/
structure Free where
  /-- LAT - 1 of the command accepted at this edge (00_scope R12; log entry 5). -/
  lat : Nat
  /-- Which of the words presented is sampled when the host has broken the handshake (60_exceptions R206; log entry 9). -/
  pick : Nat
  /-- Whether cfg_baud already shows the new BAUD in this cycle (70_reset_and_hazards R229; log entry 10). -/
  cfgNew : Bool
  /-- RSP_ERR and rsp_err while no response is held (10_state R30; log entry 6). -/
  idleErr : Bool
  /-- RSP_DATA and rsp_data while no response is held (10_state R30; log entry 6). -/
  idleData : Data
  deriving DecidableEq, Repr

/-- One clock cycle as the outside world and the open values make it, up to the rising edge that ends it. -/
structure Edge where
  pins : Pins
  free : Free
  deriving DecidableEq, Repr

/-- How the host stands with its duty of the command transfer, to hold cmd_valid and cmd_word from the cycle that first
presents a word to the transfer edge (60_exceptions R205). -/
inductive Duty where
  /-- No word waits for its transfer. -/
  | clear
  /-- This word was presented, has not transferred, and must stay on the port. -/
  | holding (w : CmdWord)
  /-- A word was presented and, before its transfer, withdrawn or changed. -/
  | broken
  deriving DecidableEq, Repr

/-- What the host has done on the command port (60_exceptions R206; log entry 9). It is a record of the host, no state
element of the block, and a reset of the block leaves it. -/
structure Offer where
  /-- Every word the host has presented while cmd_valid was 1, without repeats, the latest new one first. -/
  words : List CmdWord
  /-- The duty of the transfer to come. -/
  duty : Duty
  deriving DecidableEq, Repr

/-- The state of the block. -/
structure State where
  /-- COUNT, the processed-byte counter (10_state R23). -/
  count : Data
  /-- BAUD, the configured baud rate (10_state R25). -/
  baud : Rate
  /-- LAST_VALID (10_state R27). -/
  lastValid : Bool
  /-- LAST_BYTE (10_state R28). -/
  lastByte : Byte
  /-- PHASE (10_state R29). -/
  phase : Phase
  /-- RSP_PEND (10_state R30). -/
  rspPend : Bool
  /-- RSP_ERR (10_state R30): without meaning while RSP_PEND = 0. -/
  rspErr : Bool
  /-- RSP_DATA (10_state R30): without meaning while RSP_PEND = 0. -/
  rspData : Data
  /-- The command word sampled at acceptance (30_encoding R72; log entry 7): without meaning unless RECEIVING. -/
  cmdReg : CmdWord
  /-- How many more edges the command in flight waits before the one that presents its response (log entry 8):
  without meaning unless RECEIVING. -/
  latLeft : Nat
  /-- What the host has presented on the command port (60_exceptions R206; log entry 9). -/
  offer : Offer
  /-- ECHO_MODE, fixed when the block is built (00_scope R10): no step writes it (log entry 3). -/
  echoMode : EchoMode
  /-- The clock cycles to come, the next one first; past the list's end the host presents nothing (log entry 2). -/
  inputs : List Edge
  deriving DecidableEq, Repr

/-- Why a step stops with a fault. The block has no failure mode (60_exceptions R190) and no trap (R196), and a word that
encodes no command gets a response and changes no state (R193), so there is no constructor: no step faults. -/
inductive Fault where
  deriving DecidableEq, Repr

/-- Why a step is refused. -/
inductive Refusal where
  /-- Raised by a command's arm of `exec` that has no meaning yet, and by nothing else; no arm does (safe). -/
  | notModelled (mnemonic : String)
  deriving DecidableEq, Repr

/-- The block right after reset (10_state R37). The spec gives no value to RSP_ERR and RSP_DATA (log entry 6) and names
no register for `cmdReg`, `latLeft` and `offer` (log entries 7 to 9): no word is in flight, and the host has presented
nothing yet; `echoMode` is the default build (log entry 3); `inputs` is empty: the host presents nothing (log entry 2). -/
def State.reset : State where
  count := 0#64
  baud := defaultBaud
  lastValid := false
  lastByte := 0x00#8
  phase := .idle
  rspPend := false
  rspErr := false
  rspData := 0#64
  cmdReg := 0#40
  latLeft := 0
  offer := ⟨[], .clear⟩
  echoMode := .classify
  inputs := []

end Sys2Proof.Machine
end

