-- ==== Sys2Proof/Machine/Flags.lean ====
section
/-!
DEFINITION. The block's only flag bits (10_state R33): LAST_VALID, which goes with LAST_BYTE, and the response status
bit. No command tests a flag. There are no condition codes and no status register. Also the encoding of PHASE.
-/
namespace Sys2Proof.Machine

/-- LAST_BYTE <- b and LAST_VALID <- 1, what every PROC does (40_echo R118). -/
def State.recordLast (b : Byte) (s : State) : State := { s with lastByte := b, lastValid := true }

/-- LAST_VALID <- 0 and LAST_BYTE <- 0x00, what every construction does (10_state R27, R28). -/
def State.clearLast (s : State) : State := { s with lastByte := 0x00#8, lastValid := false }

/-- The status bit of the response to a command of the opcode map (30_encoding R84). -/
def errOk : Bool := false

/-- The status bit of an ILLEGAL response (30_encoding R84, 60_exceptions R192). -/
def errIllegal : Bool := true

/-- The 2-bit encoding of PHASE (10_state R29): no command reads it and no pin shows it. -/
def Phase.code : Phase → BitVec 2
  | .idle => 0b00#2
  | .receiving => 0b01#2
  | .echoing => 0b10#2

end Sys2Proof.Machine
end

