-- ==== Sys2Proof/Machine/Lut.lean ====
section
/-!
DEFINITION. The two constant tables: the character-mapper LUT (10_state R31, 30_encoding R87 to R91) and the eraser
sequence (10_state R32, 30_encoding R92). No step writes them, and they depend on nothing but the index.
-/
namespace Sys2Proof.Machine

/-- The classes of the LUT (30_encoding R88). -/
inductive LutClass where
  | drop
  | echoAlnum
  | echoSym
  | erase
  deriving DecidableEq, Repr

/-- The 2-bit code of a class (30_encoding R88). -/
def LutClass.code : LutClass → BitVec 2
  | .drop => 0#2
  | .echoAlnum => 1#2
  | .echoSym => 2#2
  | .erase => 3#2

/-- One range of the table of 30_encoding R89, both ends included. -/
structure LutRow where
  first : Byte
  last : Byte
  cls : LutClass
  deriving DecidableEq, Repr

/-- The table of 30_encoding R89, row by row: every byte is in exactly one range. -/
def lutRows : List LutRow :=
  [ ⟨0x00#8, 0x07#8, .drop⟩,
    ⟨0x08#8, 0x08#8, .erase⟩,
    ⟨0x09#8, 0x0A#8, .echoSym⟩,
    ⟨0x0B#8, 0x0C#8, .drop⟩,
    ⟨0x0D#8, 0x0D#8, .echoSym⟩,
    ⟨0x0E#8, 0x1F#8, .drop⟩,
    ⟨0x20#8, 0x2F#8, .echoSym⟩,
    ⟨0x30#8, 0x39#8, .echoAlnum⟩,
    ⟨0x3A#8, 0x40#8, .echoSym⟩,
    ⟨0x41#8, 0x5A#8, .echoAlnum⟩,
    ⟨0x5B#8, 0x60#8, .echoSym⟩,
    ⟨0x61#8, 0x7A#8, .echoAlnum⟩,
    ⟨0x7B#8, 0x7E#8, .echoSym⟩,
    ⟨0x7F#8, 0x7F#8, .erase⟩,
    ⟨0x80#8, 0xFF#8, .drop⟩ ]

/-- The byte lies in the row's range. -/
def LutRow.holds (r : LutRow) (b : Byte) : Bool :=
  decide (r.first ≤ b) && decide (b ≤ r.last)

/-- LUT[b]: the class of the row that the byte lies in. The default is never reached (Laws/Lut.lean). -/
def lut (b : Byte) : LutClass :=
  match lutRows.find? fun r => r.holds b with
  | some r => r.cls
  | none => .drop

/-- LUT[b] as the table stores it: a 2-bit code (10_state R31, 30_encoding R88). -/
def lutCode (b : Byte) : BitVec 2 := (lut b).code

/-- ERASE_ROM: backspace, space, backspace (30_encoding R92). -/
def eraseRom : List Byte := [0x08#8, 0x20#8, 0x08#8]

end Sys2Proof.Machine
end

