-- ==== Sys2Proof/Machine/Operands.lean ====
section
/-!
DEFINITION. What the commands compute from their operands and from the registers: the clamp (42_config R160), the
output sequence of a byte (40_echo R110 to R116), its packing into response data (30_encoding R86), the zero-extended
values of the other responses (30_encoding R85), and the increment of the counter (40_echo R110).
-/
namespace Sys2Proof.Machine

/-- zext_64 of a baud rate (00_scope R15). -/
def zextRate (r : Rate) : Data := r.setWidth 64

/-- clamp(r) (42_config R160). -/
def clampRate (r : Rate) : Rate :=
  if r < minBaud then minBaud
  else if maxBaud < r then maxBaud
  else r

/-- The output sequence of a byte in CLASSIFY mode, by its class (40_echo R111 to R115). -/
def classOutput (c : LutClass) (b : Byte) : List Byte :=
  match c with
  | .erase => eraseRom
  | .echoAlnum => [b]
  | .echoSym => [b]
  | .drop => []

/-- The output sequence of PROC (40_echo R110): in PASSTHROUGH mode neither the LUT nor the eraser is used (R116). -/
def procOutput (m : EchoMode) (b : Byte) : List Byte :=
  match m with
  | .classify => classOutput (lut b) b
  | .passthrough => [b]

/-- `OUTi`: byte i of the sequence, or 0x00 past its end (30_encoding R86). -/
def outByte (s : List Byte) (i : Nat) : Byte := s.getD i 0x00#8

/-- pack(s): LEN at bits 25..24, OUT2, OUT1, OUT0 below it, the other bits 0 (30_encoding R85, R86). -/
def packOutput (s : List Byte) : Data :=
  (BitVec.ofNat 2 s.length ++ outByte s 2 ++ outByte s 1 ++ outByte s 0).setWidth 64

/-- LEN of a PROC response (30_encoding R86). -/
def outLen (d : Data) : Nat := (d.extractLsb' 24 2).toNat

/-- The bytes of a PROC response that the host transmits: OUT0 up to OUT(LEN-1), in that order (30_encoding R86,
60_exceptions R205). -/
def unpackOutput (d : Data) : List Byte :=
  [d.extractLsb' 0 8, d.extractLsb' 8 8, d.extractLsb' 16 8].take (outLen d)

/-- inc(c) (40_echo R110, R117), for either value of CNT_OVF. -/
def incCount (o : CntOvf) (c : Data) : Data :=
  if c < BitVec.allOnes 64 then c + 1#64
  else match o with
    | .wrap => 0#64
    | .saturate => BitVec.allOnes 64

/-- The data of an RDLAST response: the flag LAST_VALID at bit 8, LAST_BYTE below it (41_query R142). -/
def packLast (valid : Bool) (b : Byte) : Data := (BitVec.ofBool valid ++ b).setWidth 64

/-- The data of an ILLEGAL response: cause, 16 zero bits, the whole word (60_exceptions R192). -/
def packIllegal (w : CmdWord) (c : BitVec 8) : Data := c ++ 0x0000#16 ++ w

end Sys2Proof.Machine
end

