-- ==== Sys2Proof/Machine/Ops.lean ====
section
/-!
DEFINITION. The named operations over the registers that the commands and the port share: writing COUNT and BAUD,
construction, presenting a response and having it taken, the ILLEGAL response (the block's one exceptional outcome),
and reset. The block has no memory to operate on (20_memory R50).
-/
namespace Sys2Proof.Machine

/-- COUNT <- v (10_state R23). -/
def State.writeCount (v : Data) (s : State) : State := { s with count := v }

/-- BAUD <- clamp(r): every write of BAUD stores the clamped rate (10_state R25). -/
def State.writeBaud (r : Rate) (s : State) : State := { s with baud := clampRate r }

/-- Construction with a rate: the counter at 0, no last byte, BAUD the clamped rate (42_config R164, R165). -/
def construct (r : Rate) (s : State) : State := ((s.writeCount 0#64).writeBaud r).clearLast

/-- respond(err, data) (00_scope R17): the command's one response is presented (30_encoding R72). -/
def respond (err : Bool) (data : Data) (s : State) : State :=
  { s with rspPend := true, rspErr := err, rspData := data, phase := .echoing }

/-- The host takes the response (30_encoding R73). RSP_ERR and RSP_DATA have no specified value from then on
(10_state R30): they become what the free values say (log entry 6). -/
def takeResponse (f : Free) (s : State) : State :=
  { s with rspPend := false, phase := .idle, rspErr := f.idleErr, rspData := f.idleData }

/-- The ILLEGAL response to the word `w` (60_exceptions R192): it changes no register but those that hold the
response (R193), saves no state and changes no mode (R196). This is the block's whole exception mechanism; nothing
traps, so there is no return from it (R197). -/
def takeIllegal (w : CmdWord) (c : Cause) (s : State) : State :=
  respond errIllegal (packIllegal w c.code) s

/-- A rising edge with rst = 1 (70_reset_and_hazards R220): every state element takes its reset value (10_state R37),
RSP_ERR and RSP_DATA any value (log entry 6); a command in flight and a held response are dropped (R222). The build
parameter, the schedule and what the host has presented are no state elements of the block and stay. -/
def resetBlock (f : Free) (s : State) : State :=
  { State.reset with
    rspErr := f.idleErr, rspData := f.idleData, offer := s.offer, echoMode := s.echoMode, inputs := s.inputs }

/-- The response that the block holds for the host, as a pair of RSP_ERR and RSP_DATA, if it holds one
(10_state R30). -/
def State.held (s : State) : Option (Bool × Data) :=
  if s.rspPend then some (s.rspErr, s.rspData) else none

end Sys2Proof.Machine
end

