-- ==== Sys2Proof/Machine/Configure.lean ====
section
/-!
DEFINITION. The configuration and construction family: SETBAUD, CLAMP, INIT, INITB (42_config).
-/
namespace Sys2Proof.Machine

/-- SETBAUD: set the configured baud rate (42_config R162). -/
def execSetbaud (r : Rate) (s : State) : Host.Outcome State Fault Refusal :=
  .next (respond errOk (zextRate (clampRate r)) (s.writeBaud r))

/-- CLAMP: evaluate the clamp; BAUD is not written (42_config R163). -/
def execClamp (r : Rate) (s : State) : Host.Outcome State Fault Refusal :=
  .next (respond errOk (zextRate (clampRate r)) s)

/-- INIT: construct with default settings (42_config R164). -/
def execInit (s : State) : Host.Outcome State Fault Refusal :=
  .next (respond errOk (zextRate defaultBaud) (construct defaultBaud s))

/-- INITB: construct with an explicit baud rate (42_config R165). -/
def execInitb (r : Rate) (s : State) : Host.Outcome State Fault Refusal :=
  .next (respond errOk (zextRate (clampRate r)) (construct r s))

end Sys2Proof.Machine
end

