-- ==== Sys2Proof/Machine/Echo.lean ====
section
/-!
DEFINITION. The echo family: PROC (40_echo).
-/
namespace Sys2Proof.Machine

/-- PROC: process one received byte (40_echo R110). Every byte counts and becomes the last byte, whatever its class and
whatever the mode (R117, R118); at COUNT = 2^64 - 1 the open parameter CNT_OVF decides (00_scope R11). -/
def execProc (b : Byte) (s : State) : Host.Outcome State Fault Refusal :=
  .next (respond errOk (packOutput (procOutput s.echoMode b))
    ((s.writeCount (incCount Config.cntOvf s.count)).recordLast b))

end Sys2Proof.Machine
end

