-- ==== Sys2Proof/Machine/Query.lean ====
section
/-!
DEFINITION. The query family: RDCNT, RDBAUD, RDLAST (41_query). They change no register but those of the response
(41_query R143).
-/
namespace Sys2Proof.Machine

/-- RDCNT: read the processed-byte counter (41_query R140). -/
def execRdcnt (s : State) : Host.Outcome State Fault Refusal :=
  .next (respond errOk s.count s)

/-- RDBAUD: read the configured baud rate (41_query R141). -/
def execRdbaud (s : State) : Host.Outcome State Fault Refusal :=
  .next (respond errOk (zextRate s.baud) s)

/-- RDLAST: read the last processed byte and its flag (41_query R142). -/
def execRdlast (s : State) : Host.Outcome State Fault Refusal :=
  .next (respond errOk (packLast s.lastValid s.lastByte) s)

end Sys2Proof.Machine
end

