-- ==== Sys2Proof/Machine/Dispatch.lean ====
section
/-!
DEFINITION. One arm per command (30_encoding R79): each calls the command's meaning.
-/
namespace Sys2Proof.Machine

def exec (i : Instr) (s : State) : Host.Outcome State Fault Refusal :=
  match i with
  | .proc b => Sys2Proof.Machine.execProc b s
  | .rdcnt => Sys2Proof.Machine.execRdcnt s
  | .rdbaud => Sys2Proof.Machine.execRdbaud s
  | .setbaud r => Sys2Proof.Machine.execSetbaud r s
  | .rdlast => Sys2Proof.Machine.execRdlast s
  | .init => Sys2Proof.Machine.execInit s
  | .initb r => Sys2Proof.Machine.execInitb r s
  | .clamp r => Sys2Proof.Machine.execClamp r s

end Sys2Proof.Machine
end

