-- ==== Sys2Proof/Machine/Transact.lean ====
section
/-!
DEFINITION. The transaction level (00_scope R6): one command word is one atomic step from a state to a state with the
command's one response (20_memory R54), and commands take effect one at a time, in order (20_memory R57).
-/
namespace Sys2Proof.Machine

/-- What a command word does: the command it encodes, or the ILLEGAL response (30_encoding R83, R93). -/
def transact (w : CmdWord) (s : State) : Host.Outcome State Fault Refusal :=
  match decode w with
  | .ok i => exec i s
  | .error c => .next (takeIllegal w c s)

/-- The tuple of 00_scope R6 and 10_state R20 that a model of the transaction level needs. -/
structure Arch where
  count : Data
  baud : Rate
  lastValid : Bool
  lastByte : Byte
  deriving DecidableEq, Repr

/-- The architectural part of a state (10_state R20). -/
def State.arch (s : State) : Arch := ⟨s.count, s.baud, s.lastValid, s.lastByte⟩

/-- A word the host sends, with the values the spec leaves open while it is in flight. -/
structure HostCmd where
  word : CmdWord
  free : Free
  deriving DecidableEq, Repr

/-- A sequence of whole transactions: each command runs, its response is noted and taken, then the next one runs
(20_memory R57, R59). The answer is the last state and the responses in order. -/
def runCommands : List HostCmd → State → Option (State × List (Bool × Data))
  | [], s => some (s, [])
  | c :: cs, s =>
    match transact c.word s with
    | .next t =>
      match runCommands cs (takeResponse c.free t) with
      | some (u, rs) => some (u, (t.rspErr, t.rspData) :: rs)
      | none => none
    | _ => none

/-- The bytes that the host transmits for one command and its response: those of a PROC response, nothing for any
other (40_echo R121, 60_exceptions R205). -/
def echoOf (w : CmdWord) (d : Data) : List Byte :=
  match decode w with
  | .ok (.proc _) => unpackOutput d
  | _ => []

/-- The echo stream of a sequence of commands and their responses (40_echo R121). -/
def echoStream : List HostCmd → List (Bool × Data) → List Byte
  | c :: cs, r :: rs => echoOf c.word r.2 ++ echoStream cs rs
  | _, _ => []

end Sys2Proof.Machine
end

