-- ==== Sys2Proof/Machine/Port.lean ====
section
/-!
DEFINITION. The port level (30_encoding section 1): what one rising edge of clk does to the block, and what the
output pins show. It refines the transaction level and adds only the handshake (00_scope R6).
-/
namespace Sys2Proof.Machine

/-- A cycle in which the host presents nothing and rst is low. No transfer happens at its edge, so the state after the
edge depends on none of its open values. The output pins do read them: in every cycle past the schedule's end, and in
the cycle that `withFetchWord` puts first, rsp_err and rsp_data are 0 while no response is held (10_state R30,
30_encoding R73: any value) and cfg_baud shows the old BAUD in its window (70_reset_and_hazards R229: old or new).
DESIGN CHOICE, unsafe for a claim about these pins in such a cycle (log entries 2, 6, 10, 16). -/
def quietEdge : Edge :=
  ⟨⟨false, false, 0#40, false⟩, ⟨0, 0, false, false, 0#64⟩⟩

/-- The cycle that the next edge ends: the first of the schedule, or one in which the host presents nothing (log
entry 2). -/
def State.nextEdge (s : State) : Edge := s.inputs.headD quietEdge

/-- The state with the first cycle of the schedule gone. -/
def State.dropEdge (s : State) : State := { s with inputs := s.inputs.tail }

/-- cmd_ready (30_encoding R72, 70_reset_and_hazards R220): it does not depend on cmd_valid. -/
def cmdReadyPin (e : Edge) (s : State) : Bool :=
  s.phase == .idle && !s.rspPend && !e.pins.rst

/-- rsp_valid equals RSP_PEND (30_encoding R70), and is 0 while rst = 1 (70_reset_and_hazards R220). -/
def rspValidPin (e : Edge) (s : State) : Bool := s.rspPend && !e.pins.rst

/-- rsp_err: RSP_ERR while the response is presented, any value otherwise (10_state R30, log entry 6). -/
def rspErrPin (e : Edge) (s : State) : Bool :=
  if rspValidPin e s then s.rspErr else e.free.idleErr

/-- rsp_data: RSP_DATA while the response is presented, any value otherwise (10_state R30, log entry 6). -/
def rspDataPin (e : Edge) (s : State) : Data :=
  if rspValidPin e s then s.rspData else e.free.idleData

/-- The word of the command in flight: what the block executes next. -/
def State.fetchWord (s : State) : CmdWord := s.cmdReg

/-- BAUD as it will be when the command in flight is complete. -/
def baudAfter (s : State) : Rate :=
  match transact s.fetchWord s with
  | .next t => t.baud
  | _ => s.baud

/-- cfg_baud (30_encoding R70): BAUD, but between acceptance and response of a command either BAUD or the value the
command gives it (70_reset_and_hazards R229, log entry 10). -/
def cfgBaudPin (e : Edge) (s : State) : Rate :=
  if s.phase = .receiving && e.free.cfgNew then baudAfter s else s.baud

/-- The words presented so far, with the one that a cycle presents (60_exceptions R206). -/
def noteWord (p : Pins) (ws : List CmdWord) : List CmdWord :=
  if p.cmdValid && !ws.contains p.cmdWord then p.cmdWord :: ws else ws

/-- The host's duty with a cycle in which it drives these pins (60_exceptions R205): a word it presents it must go on
presenting, and what is broken stays broken until the transfer edge. -/
def noteDuty (p : Pins) : Duty → Duty
  | .clear => if p.cmdValid then .holding p.cmdWord else .clear
  | .holding w => if p.cmdValid && p.cmdWord == w then .holding w else .broken
  | .broken => .broken

/-- The cycle that ends at an edge without a command transfer goes into the record of the host (log entry 9). -/
def noteOffer (e : Edge) (s : State) : State :=
  { s with offer := ⟨noteWord e.pins s.offer.words, noteDuty e.pins s.offer.duty⟩ }

/-- The word sampled at a command transfer: cmd_word; when the host has broken the duty of this transfer, any of the
words it has presented while cmd_valid was 1 (60_exceptions R206, log entry 9). -/
def sampledWord (e : Edge) (s : State) : CmdWord :=
  match noteDuty e.pins s.offer.duty with
  | .broken => (noteWord e.pins s.offer.words).getD e.free.pick e.pins.cmdWord
  | .clear => e.pins.cmdWord
  | .holding _ => e.pins.cmdWord

/-- A command transfers (30_encoding R72): the word is sampled, LAT is drawn (00_scope R12, log entry 5), and the
duty of this transfer is over (60_exceptions R205). -/
def accept (e : Edge) (s : State) : State :=
  { s with
    cmdReg := sampledWord e s, latLeft := e.free.lat, phase := .receiving
    offer := ⟨noteWord e.pins s.offer.words, .clear⟩ }

/-- An edge of a cycle in which the block waits out LAT, or the edge at which the command's effects and its response
appear together (30_encoding R72, 20_memory R54). -/
def advance (s : State) : Host.Outcome State Fault Refusal :=
  match s.latLeft with
  | 0 => transact s.fetchWord s
  | n + 1 => .next { s with latLeft := n }

/-- One rising edge of clk (30_encoding R70 to R73). A reset overrides everything (60_exceptions R194,
70_reset_and_hazards R222); then a held response, then the phase decides (log entry 14). -/
def clockEdge (e : Edge) (s : State) : Host.Outcome State Fault Refusal :=
  if e.pins.rst then .next (resetBlock e.free (noteOffer e s))
  else if s.rspPend then
    if e.pins.rspReady then .next (takeResponse e.free (noteOffer e s))
    else .next (noteOffer e s)
  else match s.phase with
    | .idle => if e.pins.cmdValid then .next (accept e s) else .next (noteOffer e s)
    | .receiving => advance (noteOffer e s)
    | .echoing => .next (noteOffer e s)

/-- The response that transfers at this edge, if one does: rsp_valid and rsp_ready are both 1 and rst is 0
(30_encoding R71, R73). -/
def transferred (e : Edge) (s : State) : Option (Bool × Data) :=
  if rspValidPin e s && e.pins.rspReady then some (rspErrPin e s, rspDataPin e s) else none

/-- The word that transfers at this edge, if one does: cmd_valid and cmd_ready are both 1 and rst is 0
(30_encoding R71, R72). -/
def accepted (e : Edge) (s : State) : Option CmdWord :=
  if cmdReadyPin e s && e.pins.cmdValid then some (sampledWord e s) else none

/-- A command as a host sends it that uses its liberties of 60_exceptions R205: `idle` cycles go by before it raises
cmd_valid, and `hold` cycles before it raises rsp_ready for the response. -/
structure HostTurn where
  cmd : HostCmd
  idle : Nat
  hold : Nat
  deriving DecidableEq, Repr

/-- A cycle in which the host drives nothing, with given open values. -/
def idleEdge (f : Free) : Edge := ⟨⟨false, false, 0#40, false⟩, f⟩

/-- The schedule of a host that keeps its duties (60_exceptions R205) for one command: idle cycles, the cycle in which
the word transfers, the wait of LAT, the cycles in which the response is held, the cycle in which it is taken. -/
def commandEdges (h : HostTurn) : List Edge :=
  List.replicate h.idle (idleEdge h.cmd.free) ++ ⟨⟨false, true, h.cmd.word, false⟩, h.cmd.free⟩ ::
    (List.replicate (h.cmd.free.lat + 1) (idleEdge h.cmd.free) ++
      (List.replicate h.hold (idleEdge h.cmd.free) ++ [⟨⟨false, false, 0#40, true⟩, h.cmd.free⟩]))

/-- The schedule of such a host for a sequence of commands, one after the other (70_reset_and_hazards R227). -/
def scriptOf (hs : List HostTurn) : List Edge := hs.flatMap commandEdges

end Sys2Proof.Machine
end

