-- ==== Sys2Proof/Machine/Step.lean ====
section
/-!
DEFINITION. One step of the machine: one rising edge of clk with the next cycle of the schedule (log entries 1 and 2).
-/
namespace Sys2Proof.Machine

/-- One rising edge of clk. -/
def step (s : State) : Host.Outcome State Fault Refusal :=
  clockEdge s.nextEdge s.dropEdge

/-- The state in which the command word of that number is in flight and the next edge, at which the host drives
nothing, is the one that executes it and presents its response: as an acceptance and LAT - 1 further edges leave it
(30_encoding R72; log entry 16), but for the record of the host. DESIGN CHOICE: that record stays as it was, so the word
does not count as presented and no duty ends, where an acceptance notes the word and clears the duty (60_exceptions R205,
R206; log entries 9 and 16). Its parts: the sampled word, the phase, no response held, no wait left, and a quiet
cycle at the head of the schedule, whose open pin values are the model's choice (`quietEdge`; log entries 6, 10, 16). -/
def State.withFetchWord (s : State) (nbits w : Nat) : State :=
  { s with
    cmdReg := tableWord nbits w
    phase := .receiving
    rspPend := false
    latLeft := 0
    inputs := quietEdge :: s.inputs }

end Sys2Proof.Machine
end

