-- ==== Sys2Proof/Machine/Assembler.lean ====
section
/-!
DEFINITION. The assembly syntax and the pseudo-instructions (30_encoding R94, R95): from the characters of a line to
the command words it stands for. A line that breaks the syntax, or whose value does not fit its field, is an error
(none). Where R94 leaves a detail of the form open, log entry 17 says what is taken.
-/
namespace Sys2Proof.Machine

/-- The characters that a literal of this file would hide: apostrophe, double quote, backslash. -/
def chQuote : Char := Char.ofNat 39
def chDouble : Char := Char.ofNat 34
def chBackslash : Char := Char.ofNat 92

/-- Space or tab. -/
def isBlank (c : Char) : Bool := c == ' ' || c == Char.ofNat 9

def dropBlanks (cs : List Char) : List Char := cs.dropWhile isBlank

/-- Nothing is left on the line but blanks and a comment, which `;` starts (30_encoding R94). -/
def lineDone (cs : List Char) : Bool :=
  match dropBlanks cs with
  | [] => true
  | c :: _ => c == ';'

/-- A character of a mnemonic or of a number: it ends at a blank, a comment or the line's end. -/
def isTokenChar (c : Char) : Bool := !isBlank c && c != ';'

/-- A letter in lower case: mnemonics are case-insensitive (30_encoding R94). -/
def lowerChar (c : Char) : Char :=
  if 'A' ≤ c ∧ c ≤ 'Z' then Char.ofNat (c.toNat + 32) else c

/-- The value of a digit of a base up to 16, letters in either case. -/
def digitVal (base : Nat) (c : Char) : Option Nat :=
  let l := lowerChar c
  let v :=
    if '0' ≤ l ∧ l ≤ '9' then l.toNat - 48
    else if 'a' ≤ l ∧ l ≤ 'f' then l.toNat - 87
    else base
  if v < base then some v else none

/-- A number in a base, added to what stands to its left. -/
def digitsVal (base : Nat) : List Char → Nat → Option Nat
  | [], acc => some acc
  | c :: cs, acc =>
    match digitVal base c with
    | some d => digitsVal base cs (acc * base + d)
    | none => none

/-- A number in a base, of at least one digit. -/
def number (base : Nat) (cs : List Char) : Option Nat :=
  if cs.isEmpty then none else digitsVal base cs 0

/-- A decimal number with optional `_` between digits; `after` says that a digit stands to the left. -/
def decimalSep : List Char → Bool → Nat → Option Nat
  | [], after, acc => if after then some acc else none
  | c :: cs, after, acc =>
    if c == '_' then (if after then decimalSep cs false acc else none)
    else match digitVal 10 c with
      | some d => decimalSep cs true (acc * 10 + d)
      | none => none

/-- A value that must fit its field: never truncated (30_encoding R94). -/
def fits (width : Nat) (v : Option Nat) : Option (BitVec width) :=
  match v with
  | some n => if n < 2 ^ width then some (BitVec.ofNat width n) else none
  | none => none

/-- An imm8 written as a number: decimal, 0x hex or 0b binary (30_encoding R94). -/
def imm8Token (t : List Char) : Option Byte :=
  match t with
  | '0' :: 'x' :: ds => fits 8 (number 16 ds)
  | '0' :: 'b' :: ds => fits 8 (number 2 ds)
  | _ => fits 8 (number 10 t)

/-- An imm32: decimal with optional `_` separators, or 0x hex (30_encoding R94). -/
def imm32Token (t : List Char) : Option Rate :=
  match t with
  | '0' :: 'x' :: ds => fits 32 (number 16 ds)
  | _ => fits 32 (decimalSep t false 0)

/-- The word of `.cmd`: 0x and ten hex digits (30_encoding R94). -/
def cmdToken (t : List Char) : Option CmdWord :=
  match t with
  | '0' :: 'x' :: ds => if ds.length = 10 then fits 40 (number 16 ds) else none
  | _ => none

/-- The code that a character after a backslash stands for (30_encoding R94). -/
def escapeCode (c : Char) : Option Byte :=
  if c == 'n' then some 0x0A#8
  else if c == 'r' then some 0x0D#8
  else if c == 't' then some 0x09#8
  else if c == chBackslash then some 0x5C#8
  else if c == chQuote then some 0x27#8
  else if c == '0' then some 0x00#8
  else none

/-- The code of a character that stands for itself: its ASCII code (00_scope R18). -/
def plainCode (c : Char) : Option Byte :=
  if c.toNat < 128 then some (BitVec.ofNat 8 c.toNat) else none

/-- The codes of the characters up to the closing character `close`, with the escapes of 30_encoding R94, and what
follows on the line. -/
def quoted (close : Char) : List Char → Option (List Byte × List Char)
  | [] => none
  | c :: cs =>
    if c == close then some ([], cs)
    else if c == chBackslash then
      match cs with
      | [] => none
      | e :: es =>
        if e == 'x' then
          match es with
          | h :: l :: rest =>
            match number 16 [h, l], quoted close rest with
            | some v, some (bs, tail) => some (BitVec.ofNat 8 v :: bs, tail)
            | _, _ => none
          | _ => none
        else match escapeCode e, quoted close es with
          | some v, some (bs, tail) => some (v :: bs, tail)
          | _, _ => none
    else match plainCode c, quoted close cs with
      | some v, some (bs, tail) => some (v :: bs, tail)
      | _, _ => none

/-- The operand of PROC: a number, or a character literal standing for its code (30_encoding R94). -/
def procOperand (cs : List Char) : Option Byte :=
  match cs with
  | c :: rest =>
    if c == chQuote then
      match quoted chQuote rest with
      | some ([b], tail) => if lineDone tail then some b else none
      | _ => none
    else if lineDone (cs.dropWhile isTokenChar) then imm8Token (cs.takeWhile isTokenChar) else none
  | [] => none

/-- The operand of PROCS: a text in double quotes (30_encoding R95). -/
def procsOperand (cs : List Char) : Option (List Byte) :=
  match cs with
  | c :: rest =>
    if c == chDouble then
      match quoted chDouble rest with
      | some (bs, tail) => if lineDone tail then some bs else none
      | none => none
    else none
  | [] => none

/-- One token and then nothing more on the line. -/
def loneToken (cs : List Char) : Option (List Char) :=
  if lineDone (cs.dropWhile isTokenChar) then some (cs.takeWhile isTokenChar) else none

/-- What a line's first word asks for. -/
inductive AsmOp where
  /-- A command without an operand on the line. -/
  | plain (i : Instr)
  /-- PROC with an imm8. -/
  | byteArg
  /-- SETBAUD, INITB, CLAMP with an imm32. -/
  | setbaudArg
  | initbArg
  | clampArg
  /-- PROCS with a text. -/
  | textArg
  /-- .cmd with a word. -/
  | wordArg
  deriving DecidableEq, Repr

/-- The mnemonics (30_encoding R79), the pseudo-instructions (R95) and the directive (R94), in lower case. -/
def asmTable : List (List Char × AsmOp) :=
  [ (['p', 'r', 'o', 'c'], .byteArg),
    (['r', 'd', 'c', 'n', 't'], .plain .rdcnt),
    (['r', 'd', 'b', 'a', 'u', 'd'], .plain .rdbaud),
    (['s', 'e', 't', 'b', 'a', 'u', 'd'], .setbaudArg),
    (['r', 'd', 'l', 'a', 's', 't'], .plain .rdlast),
    (['i', 'n', 'i', 't'], .plain .init),
    (['i', 'n', 'i', 't', 'b'], .initbArg),
    (['c', 'l', 'a', 'm', 'p'], .clampArg) ] ++
  [ (['p', 'r', 'o', 'c', 's'], .textArg),
    (['e', 'r', 'a', 's', 'e'], .plain (.proc 0x08#8)),
    (['d', 'e', 'f', 'b', 'a', 'u', 'd'], .plain (.setbaud defaultBaud)),
    (['.', 'c', 'm', 'd'], .wordArg) ]

/-- The command words of what follows the first word of a line (30_encoding R94, R95). -/
def asmOperand (op : AsmOp) (cs : List Char) : Option (List CmdWord) :=
  match op with
  | .plain i => if lineDone cs then some [encode i] else none
  | .byteArg => (procOperand cs).map fun b => [encode (.proc b)]
  | .setbaudArg => ((loneToken cs).bind imm32Token).map fun r => [encode (.setbaud r)]
  | .initbArg => ((loneToken cs).bind imm32Token).map fun r => [encode (.initb r)]
  | .clampArg => ((loneToken cs).bind imm32Token).map fun r => [encode (.clamp r)]
  | .textArg => (procsOperand cs).map fun bs => bs.map fun b => encode (.proc b)
  | .wordArg => ((loneToken cs).bind cmdToken).map fun w => [w]

/-- The command words of one line (30_encoding R94): none of them for a blank line or a comment. DESIGN CHOICE: a blank
must stand between the mnemonic and its operand, a quoted one too, since the rule only says that the operand follows;
and the names of the pseudo-instructions (R95) and of `.cmd` are case-insensitive like the mnemonics of R79, of which
alone the rule says it (log entry 17). -/
def asmLine (line : List Char) : Option (List CmdWord) :=
  let cs := dropBlanks line
  if lineDone cs then some []
  else
    match asmTable.lookup ((cs.takeWhile isTokenChar).map lowerChar) with
    | some op => asmOperand op (dropBlanks (cs.dropWhile isTokenChar))
    | none => none

/-- The command words of a program, line by line. -/
def asmProgram : List (List Char) → Option (List CmdWord)
  | [] => some []
  | l :: ls =>
    match asmLine l, asmProgram ls with
    | some ws, some rest => some (ws ++ rest)
    | _, _ => none

end Sys2Proof.Machine
end

