-- ==== Sys2Proof/Safety.lean ====
section
/-!
DEFINITION. What counts as a safe state and as a host that keeps its handshake duty, in the terms the claims use.
-/
namespace Sys2Proof.Machine

/-- The invariants of 10_state R38 that are about one state, and the tie between RSP_PEND and PHASE that 30_encoding R72
and R73 keep: a response is held exactly in ECHOING. -/
abbrev State.Inv (s : State) : Prop :=
  minBaud ≤ s.baud ∧ s.baud ≤ maxBaud
    ∧ (s.lastValid = false → s.lastByte = 0x00#8 ∧ s.count = 0#64)
    ∧ (s.rspPend = true ↔ s.phase = .echoing)

/-- A transaction-level boundary: no command in flight, no response held (10_state R29, R38). -/
abbrev State.AtBoundary (s : State) : Prop := s.phase = .idle ∧ s.rspPend = false

/-- The host has kept the duty of the command transfer to come, this cycle included (60_exceptions R205): a word it has
presented and that was not transferred stays on the port, cmd_valid high. -/
abbrev HostHolds (e : Edge) (s : State) : Prop :=
  noteDuty e.pins s.offer.duty ≠ .broken

/-- The block presents the response `err`, `data` (30_encoding R73): what `respond` of 00_scope R17 leaves. -/
abbrev State.Presents (t : State) (err : Bool) (data : Data) : Prop :=
  t.rspPend = true ∧ t.phase = .echoing ∧ t.rspErr = err ∧ t.rspData = data

/-- The state `k` edges later. -/
def runSteps : Nat → State → Host.Outcome State Fault Refusal
  | 0, s => .next s
  | k + 1, s =>
    match step s with
    | .next t => runSteps k t
    | .fault r => .fault r
    | .refused r => .refused r

/-- The responses that transfer at the next `k` edges, in order (30_encoding R73). -/
def takenIn : Nat → State → List (Bool × Data)
  | 0, _ => []
  | k + 1, s =>
    match step s with
    | .next t => (transferred s.nextEdge s.dropEdge).toList ++ takenIn k t
    | _ => []

/-- The words that transfer at the next `k` edges, in order (30_encoding R72). -/
def acceptedIn : Nat → State → List CmdWord
  | 0, _ => []
  | k + 1, s =>
    match step s with
    | .next t => (accepted s.nextEdge s.dropEdge).toList ++ acceptedIn k t
    | _ => []

/-- The number of PROC commands since the last construction (10_state R24), when it was `n` before the sequence: INIT
and INITB set it to 0, a word that encodes no command does not count. -/
def procsSince : List HostCmd → Nat → Nat
  | [], n => n
  | c :: cs, n =>
    procsSince cs (match decode c.word with
      | .ok (.proc _) => n + 1
      | .ok .init => 0
      | .ok (.initb _) => 0
      | _ => n)

/-- Whether a PROC was executed since the last construction (10_state R38), when `b` says so before the sequence. -/
def procSeen : List HostCmd → Bool → Bool
  | [], b => b
  | c :: cs, b =>
    procSeen cs (match decode c.word with
      | .ok (.proc _) => true
      | .ok .init => false
      | .ok (.initb _) => false
      | _ => b)

/-- One character as a text or a character literal writes it (30_encoding R94). -/
inductive TextItem where
  /-- A character that stands for itself. -/
  | plain (c : Char)
  /-- Backslash and n, r, t, backslash, apostrophe, 0. -/
  | newline
  | carriageReturn
  | tab
  | backslash
  | apostrophe
  | nul
  /-- Backslash, x and two hex digits, each with its letter case. -/
  | hex (hi lo : Fin 16) (hiUpper loUpper : Bool)
  deriving DecidableEq, Repr

/-- A hex digit in the letter case asked for. -/
def hexDigit (upper : Bool) (d : Fin 16) : Char :=
  (['0', '1', '2', '3', '4', '5', '6', '7', '8', '9'] ++
    (if upper then ['A', 'B', 'C', 'D', 'E', 'F'] else ['a', 'b', 'c', 'd', 'e', 'f'])).getD d.val '0'

/-- The characters of the item. -/
def TextItem.chars : TextItem → List Char
  | .plain c => [c]
  | .newline => [chBackslash, 'n']
  | .carriageReturn => [chBackslash, 'r']
  | .tab => [chBackslash, 't']
  | .backslash => [chBackslash, chBackslash]
  | .apostrophe => [chBackslash, chQuote]
  | .nul => [chBackslash, '0']
  | .hex hi lo hu lu => [chBackslash, 'x', hexDigit hu hi, hexDigit lu lo]

/-- The code that the item stands for (30_encoding R94; a character's own code is its ASCII code, 00_scope R18). -/
def TextItem.code : TextItem → Byte
  | .plain c => BitVec.ofNat 8 c.toNat
  | .newline => 0x0A#8
  | .carriageReturn => 0x0D#8
  | .tab => 0x09#8
  | .backslash => 0x5C#8
  | .apostrophe => 0x27#8
  | .nul => 0x00#8
  | .hex hi lo _ _ => BitVec.ofNat 8 (16 * hi.val + lo.val)

/-- The item may stand before the closing character `close`: a character that stands for itself is ASCII and is neither
the closing character nor the backslash, which starts an escape. -/
abbrev TextItem.MayStand (close : Char) : TextItem → Prop
  | .plain c => c.toNat < 128 ∧ c ≠ close ∧ c ≠ chBackslash
  | _ => True

end Sys2Proof.Machine
end

