-- ==== Sys2Proof/WellFormed.lean ====
section
/-!
DEFINITION. Which 40-bit words are commands: the rows of spec/opcode_table.json as masks and patterns, written
independently of the decoder of Decode.lean. A term of Instr needs no check of its own: its operands have exactly the
widths of their fields and every value of them is legal (30_encoding R78; log entry 15).
-/
namespace Sys2Proof

/-- One row of the opcode table: a word is this row's command when its bits under `mask` are `pattern`. -/
structure OpcodeRow where
  mnemonic : String
  pattern : CmdWord
  mask : CmdWord
  deriving DecidableEq, Repr

/-- The eight rows, in the table's order. -/
def opcodeRows : List OpcodeRow :=
  [ ⟨"PROC",    0x0100000000#40, 0xFFFFFFFF00#40⟩,
    ⟨"RDCNT",   0x0200000000#40, 0xFFFFFFFFFF#40⟩,
    ⟨"RDBAUD",  0x0300000000#40, 0xFFFFFFFFFF#40⟩,
    ⟨"SETBAUD", 0x0400000000#40, 0xFF00000000#40⟩,
    ⟨"RDLAST",  0x0500000000#40, 0xFFFFFFFFFF#40⟩,
    ⟨"INIT",    0x0600000000#40, 0xFFFFFFFFFF#40⟩,
    ⟨"INITB",   0x0700000000#40, 0xFF00000000#40⟩,
    ⟨"CLAMP",   0x0800000000#40, 0xFF00000000#40⟩ ]

/-- The row covers the word. -/
def OpcodeRow.covers (r : OpcodeRow) (w : CmdWord) : Bool := w &&& r.mask == r.pattern

/-- First check: the opcode byte is that of some row (30_encoding R81). -/
def opcodeAssigned (w : CmdWord) : Bool :=
  opcodeRows.any fun r => w.extractLsb' 32 8 == r.pattern.extractLsb' 32 8

/-- Second check: every bit that the word's row reserves is 0 (30_encoding R82). -/
def reservedBitsZero (w : CmdWord) : Bool :=
  opcodeRows.all fun r =>
    w.extractLsb' 32 8 != r.pattern.extractLsb' 32 8
      || (w &&& r.mask).extractLsb' 0 32 == r.pattern.extractLsb' 0 32

/-- The word encodes a command: some row covers it (30_encoding R83). -/
def wordWellFormed (w : CmdWord) : Bool := opcodeRows.any fun r => r.covers w

end Sys2Proof
end

