-- ==== Sys2Proof/Certificates/Slice0/Obligations.lean ====
section
/-!
DEFINITION. The statements for the provers. Each says in its docstring which rules of spec/ it formalises. A free value
(Free, Config.cntOvf) is never fixed: each statement holds for every value of it.
-/

open Sys2Proof Sys2Proof.Machine

/-! ## Encoding -/

/-- R74 to R79, R93: decoding the word of a command gives the command, for every operand value. -/
def Obligations.DecodeOfEncode : Prop :=
  ∀ i : Instr, decode (encode i) = .ok i

/-- R82, R83, R93: a word decodes to at most the command whose encoding it is, so no bit of a word is ignored. -/
def Obligations.EncodeOfDecode : Prop :=
  ∀ (w : CmdWord) (i : Instr), decode w = .ok i → encode i = w

/-- R83: the decoder accepts exactly the words that a row of the opcode table covers. -/
def Obligations.DecoderMatchesOpcodeTable : Prop :=
  ∀ w : CmdWord, (∃ i, decode w = .ok i) ↔ wordWellFormed w = true

/-- Words of every family, as 40_echo, 41_query, 42_config and 95_test_vectors write them out. -/
def Obligations.SpelledOutWordsDecode : Prop :=
  decode 0x0100000041#40 = .ok (.proc 0x41#8)
    ∧ decode 0x0200000000#40 = .ok .rdcnt
    ∧ decode 0x0300000000#40 = .ok .rdbaud
    ∧ decode 0x0400989680#40 = .ok (.setbaud 10000000#32)
    ∧ decode 0x0500000000#40 = .ok .rdlast
    ∧ decode 0x0600000000#40 = .ok .init
    ∧ decode 0x0700000064#40 = .ok (.initb 100#32)
    ∧ decode 0x0800000064#40 = .ok (.clamp 100#32)

/-! ## ILLEGAL words -/

/-- R81, R192: a word whose opcode is 0x00 or 0x09 to 0xFF gets the ILLEGAL response with cause 0x01, whatever its
argument is (R194). -/
def Obligations.UnassignedOpcodeIsIllegal : Prop :=
  ∀ (w : CmdWord) (s : State), (w.toNat / 2 ^ 32 = 0 ∨ 9 ≤ w.toNat / 2 ^ 32) →
    decode w = .error .unassignedOpcode
      ∧ ∃ t, transact w s = .next t ∧ t.Presents true (0x01#8 ++ 0x0000#16 ++ w)

/-- R82, R192: a word of format F0 with a nonzero argument, or of format FB with a nonzero bit in ARG[31:8], gets the
ILLEGAL response with cause 0x02. -/
def Obligations.ReservedBitsAreIllegal : Prop :=
  ∀ (w : CmdWord) (s : State),
    ((w.toNat / 2 ^ 32 = 2 ∨ w.toNat / 2 ^ 32 = 3 ∨ w.toNat / 2 ^ 32 = 5 ∨ w.toNat / 2 ^ 32 = 6)
        ∧ w.toNat % 2 ^ 32 ≠ 0
      ∨ w.toNat / 2 ^ 32 = 1 ∧ 2 ^ 8 ≤ w.toNat % 2 ^ 32) →
    decode w = .error .reservedBits
      ∧ ∃ t, transact w s = .next t ∧ t.Presents true (0x02#8 ++ 0x0000#16 ++ w)

/-- R193: a word that encodes no command changes COUNT, BAUD, LAST_VALID and LAST_BYTE not at all; beside the
response's registers and the phase, nothing changes. -/
def Obligations.IllegalChangesNoState : Prop :=
  ∀ (w : CmdWord) (s : State), wordWellFormed w = false →
    ∃ t, transact w s = .next t ∧ t.arch = s.arch
      ∧ t = { s with rspPend := true, rspErr := true, rspData := t.rspData, phase := .echoing }

/-! ## The step runs what is in flight -/

/-- When the word in flight decodes, LAT has elapsed and rst is low, the step is the command's meaning. Around it the
step only takes the next cycle off the schedule and notes what the host presents in it (log entries 1, 2, 7, 8, 9). -/
def Obligations.StepRunsDecodedInstruction : Prop :=
  ∀ (s : State) (i : Instr), decode s.cmdReg = .ok i → s.phase = .receiving → s.rspPend = false →
    s.latLeft = 0 → s.nextEdge.pins.rst = false →
    step s = exec i (noteOffer s.nextEdge s.dropEdge)

/-- A word put in flight by number is run by the very next step, whose cycle, in which the host presents nothing, goes
into the record of the host (how the word is put there, and the record, are the model's: log entries 9 and 16). -/
def Obligations.FetchedWordIsRun : Prop :=
  ∀ (s : State) (i : Instr),
    step (s.withFetchWord 40 (encode i).toNat)
      = exec i (noteOffer quietEdge
          { s with cmdReg := encode i, phase := .receiving, rspPend := false, latLeft := 0 })

/-- R190, R196: no step faults and none is refused. -/
def Obligations.EveryStepAnswers : Prop :=
  ∀ s : State, ∃ t, step s = .next t

/-! ## PROC -/

/-- R112: in CLASSIFY mode 0x08 and 0x7F give the erase sequence 0x08, 0x20, 0x08 with LEN = 3. -/
def Obligations.ProcErase : Prop :=
  ∀ (b : Byte) (s : State), s.echoMode = .classify → (b = 0x08#8 ∨ b = 0x7F#8) →
    ∃ t, exec (.proc b) s = .next t ∧ t.Presents false 0x0000000003082008#64

/-- R113: in CLASSIFY mode a letter or digit gives itself with LEN = 1. -/
def Obligations.ProcEchoesAlnum : Prop :=
  ∀ (b : Byte) (s : State), s.echoMode = .classify →
    (0x30#8 ≤ b ∧ b ≤ 0x39#8 ∨ 0x41#8 ≤ b ∧ b ≤ 0x5A#8 ∨ 0x61#8 ≤ b ∧ b ≤ 0x7A#8) →
    ∃ t, exec (.proc b) s = .next t ∧ t.Presents false (0x0000000001000000#64 + b.setWidth 64)

/-- R114: in CLASSIFY mode a symbol, newline, carriage return or tab gives itself with LEN = 1. -/
def Obligations.ProcEchoesSymbols : Prop :=
  ∀ (b : Byte) (s : State), s.echoMode = .classify →
    (b = 0x09#8 ∨ b = 0x0A#8 ∨ b = 0x0D#8 ∨ 0x20#8 ≤ b ∧ b ≤ 0x2F#8 ∨ 0x3A#8 ≤ b ∧ b ≤ 0x40#8
      ∨ 0x5B#8 ≤ b ∧ b ≤ 0x60#8 ∨ 0x7B#8 ≤ b ∧ b ≤ 0x7E#8) →
    ∃ t, exec (.proc b) s = .next t ∧ t.Presents false (0x0000000001000000#64 + b.setWidth 64)

/-- R115: in CLASSIFY mode every other byte gives the empty sequence: LEN, OUT0, OUT1 and OUT2 are 0, and no error. -/
def Obligations.ProcDrops : Prop :=
  ∀ (b : Byte) (s : State), s.echoMode = .classify →
    (b ≤ 0x07#8 ∨ 0x0B#8 ≤ b ∧ b ≤ 0x0C#8 ∨ 0x0E#8 ≤ b ∧ b ≤ 0x1F#8 ∨ 0x80#8 ≤ b) →
    ∃ t, exec (.proc b) s = .next t ∧ t.Presents false 0#64

/-- R116: in PASSTHROUGH mode every byte gives itself with LEN = 1; the counter and the last byte follow the same
rules as in CLASSIFY mode. -/
def Obligations.ProcPassesThrough : Prop :=
  ∀ (b : Byte) (s : State), s.echoMode = .passthrough →
    ∃ t, exec (.proc b) s = .next t ∧ t.Presents false (0x0000000001000000#64 + b.setWidth 64)
      ∧ t.lastByte = b ∧ t.lastValid = true
      ∧ (s.count.toNat < 2 ^ 64 - 1 → t.count.toNat = s.count.toNat + 1)
      ∧ (s.count.toNat = 2 ^ 64 - 1 →
          t.count.toNat = match Config.cntOvf with | .wrap => 0 | .saturate => 2 ^ 64 - 1)

/-- R117: PROC adds 1 to COUNT below the bound, whatever the byte and the mode; at 2^64 - 1 CNT_OVF decides between 0
and 2^64 - 1. -/
def Obligations.ProcCounts : Prop :=
  ∀ (b : Byte) (s : State), ∃ t, exec (.proc b) s = .next t
    ∧ (s.count.toNat < 2 ^ 64 - 1 → t.count.toNat = s.count.toNat + 1)
    ∧ (s.count.toNat = 2 ^ 64 - 1 →
        t.count.toNat = match Config.cntOvf with | .wrap => 0 | .saturate => 2 ^ 64 - 1)

/-- R118: PROC records the byte, whatever its class and whatever the mode. -/
def Obligations.ProcRecordsLastByte : Prop :=
  ∀ (b : Byte) (s : State), ∃ t, exec (.proc b) s = .next t ∧ t.lastByte = b ∧ t.lastValid = true

/-- The frame of PROC: it changes COUNT, LAST_BYTE, LAST_VALID, the response and the phase, and nothing else; its response
is no error (R122). The block has no memory. -/
def Obligations.ProcFrame : Prop :=
  ∀ (b : Byte) (s : State), ∃ t, exec (.proc b) s = .next t
    ∧ t = { s with
        count := t.count, lastByte := b, lastValid := true
        rspPend := true, rspErr := false, rspData := t.rspData, phase := .echoing }

/-- R120, R86: LEN is 0, 1 or 3 in CLASSIFY mode, 1 in PASSTHROUGH mode, never 2; an output byte at or past LEN is 0, and
so is every bit above LEN. -/
def Obligations.ProcOutputLength : Prop :=
  ∀ (b : Byte) (s : State), ∃ t, exec (.proc b) s = .next t
    ∧ (s.echoMode = .classify → outLen t.rspData = 0 ∨ outLen t.rspData = 1 ∨ outLen t.rspData = 3)
    ∧ (s.echoMode = .passthrough → outLen t.rspData = 1)
    ∧ (outLen t.rspData ≤ 2 → t.rspData.extractLsb' 16 8 = 0#8)
    ∧ (outLen t.rspData ≤ 1 → t.rspData.extractLsb' 8 8 = 0#8)
    ∧ (outLen t.rspData = 0 → t.rspData.extractLsb' 0 8 = 0#8)
    ∧ t.rspData.toNat < 2 ^ 26

/-- R123, R91: the answer to a byte depends on the byte and on the build alone, not on the counter, the last byte, BAUD or
anything else that came before. -/
def Obligations.ProcKeepsNoHistory : Prop :=
  ∀ (b : Byte) (s s' : State), s.echoMode = s'.echoMode →
    ∃ t t', exec (.proc b) s = .next t ∧ exec (.proc b) s' = .next t' ∧ t.rspErr = t'.rspErr ∧ t.rspData = t'.rspData

/-- R90: the table of ranges is the predicate that the rule writes out. -/
def Obligations.LutMatchesPredicate : Prop :=
  ∀ b : Byte, lutCode b =
    if b = 0x08#8 ∨ b = 0x7F#8 then 3#2
    else if 0x30#8 ≤ b ∧ b ≤ 0x39#8 ∨ 0x41#8 ≤ b ∧ b ≤ 0x5A#8 ∨ 0x61#8 ≤ b ∧ b ≤ 0x7A#8 then 1#2
    else if 0x20#8 ≤ b ∧ b ≤ 0x7E#8 ∨ b = 0x09#8 ∨ b = 0x0A#8 ∨ b = 0x0D#8 then 2#2
    else 0#2

/-! ## Queries -/

/-- R140: RDCNT answers all 64 bits of COUNT and changes nothing but the response's registers and the phase. -/
def Obligations.RdcntReadsCounter : Prop :=
  ∀ s : State, exec .rdcnt s
    = .next { s with rspPend := true, rspErr := false, rspData := s.count, phase := .echoing }

/-- R141: RDBAUD answers BAUD, zero-extended, and changes nothing but the response's registers and the phase. -/
def Obligations.RdbaudReadsBaud : Prop :=
  ∀ s : State, exec .rdbaud s
    = .next { s with rspPend := true, rspErr := false, rspData := s.baud.setWidth 64, phase := .echoing }

/-- R142: RDLAST answers LAST_BYTE in bits 7..0 and LAST_VALID in bit 8, all other bits 0, and changes nothing but the
response's registers and the phase. -/
def Obligations.RdlastReadsLastByte : Prop :=
  ∀ s : State, ∃ t, exec .rdlast s = .next t
    ∧ t.rspData.toNat = (if s.lastValid then 256 else 0) + s.lastByte.toNat
    ∧ t = { s with rspPend := true, rspErr := false, rspData := t.rspData, phase := .echoing }

/-- R143: no query command changes COUNT, BAUD, LAST_VALID or LAST_BYTE. -/
def Obligations.QueriesChangeNothing : Prop :=
  ∀ (i : Instr) (s : State), i ∈ [Instr.rdcnt, .rdbaud, .rdlast] → ∃ t, exec i s = .next t ∧ t.arch = s.arch

/-! ## Configuration and construction -/

/-- R160: the clamp is the larger of MIN_BAUD and the smaller of the rate and MAX_BAUD. -/
def Obligations.ClampIsMaxOfMin : Prop :=
  ∀ r : Rate, (clampRate r).toNat = max 9600 (min r.toNat 921600)

/-- R161: the laws of the clamp. -/
def Obligations.ClampLaws : Prop :=
  (∀ r : Rate, clampRate (clampRate r) = clampRate r)
    ∧ (∀ r : Rate, r.toNat < 9600 → (clampRate r).toNat = 9600)
    ∧ (∀ r : Rate, 921600 < r.toNat → (clampRate r).toNat = 921600)
    ∧ (∀ r : Rate, 9600 ≤ r.toNat → r.toNat ≤ 921600 → clampRate r = r)
    ∧ (∀ r : Rate, 9600 ≤ (clampRate r).toNat ∧ (clampRate r).toNat ≤ 921600)
    ∧ (∀ r r' : Rate, r ≤ r' → clampRate r ≤ clampRate r')

/-- R162: SETBAUD stores and answers the clamped rate; everything else but the response's registers and the phase is
unchanged. -/
def Obligations.SetbaudStoresClampedRate : Prop :=
  ∀ (r : Rate) (s : State), ∃ t, exec (.setbaud r) s = .next t
    ∧ t.baud.toNat = max 9600 (min r.toNat 921600)
    ∧ t = { s with
        baud := t.baud, rspPend := true, rspErr := false, rspData := t.baud.setWidth 64, phase := .echoing }

/-- R163: CLAMP answers the clamped rate and changes nothing but the response's registers and the phase. -/
def Obligations.ClampAnswersClampedRate : Prop :=
  ∀ (r : Rate) (s : State), ∃ t, exec (.clamp r) s = .next t
    ∧ t.rspData.toNat = max 9600 (min r.toNat 921600)
    ∧ t = { s with rspPend := true, rspErr := false, rspData := t.rspData, phase := .echoing }

/-- R164: INIT constructs with the default rate; everything it does not name is unchanged, and the architectural state
is that of reset. -/
def Obligations.InitConstructsDefault : Prop :=
  ∀ s : State, ∃ t, exec .init s = .next t ∧ t.arch = State.reset.arch
    ∧ t = { s with
        count := 0#64, baud := 115200#32, lastValid := false, lastByte := 0x00#8
        rspPend := true, rspErr := false, rspData := 115200#64, phase := .echoing }

/-- R165: INITB constructs with the clamped rate; everything it does not name is unchanged. -/
def Obligations.InitbConstructsWithRate : Prop :=
  ∀ (r : Rate) (s : State), ∃ t, exec (.initb r) s = .next t
    ∧ t.baud.toNat = max 9600 (min r.toNat 921600)
    ∧ t = { s with
        count := 0#64, baud := t.baud, lastValid := false, lastByte := 0x00#8
        rspPend := true, rspErr := false, rspData := t.baud.setWidth 64, phase := .echoing }

/-- R190: every command completes with rsp_err = 0, for every operand value and in every state. -/
def Obligations.CommandsNeverFail : Prop :=
  ∀ (i : Instr) (s : State), ∃ t, exec i s = .next t ∧ t.rspPend = true ∧ t.phase = .echoing ∧ t.rspErr = false

/-- R35 with R162, R163, R164 and R165: the BAUD before the command changes the response of no command but RDBAUD, and
no command lets it into COUNT, LAST_VALID or LAST_BYTE (SETBAUD, INIT and INITB answer the BAUD they store, which does
not depend on the one before). -/
def Obligations.BaudChangesOnlyRdbaud : Prop :=
  ∀ (i : Instr) (s : State) (r : Rate), i ≠ .rdbaud →
    ∃ t t', exec i s = .next t ∧ exec i { s with baud := r } = .next t'
      ∧ t.rspErr = t'.rspErr ∧ t.rspData = t'.rspData
      ∧ t.count = t'.count ∧ t.lastValid = t'.lastValid ∧ t.lastByte = t'.lastByte

/-- R55: every command but PROC leaves the same state when it runs twice in a row; PROC does not, below the counter's
bound. -/
def Obligations.CommandsIdempotentButProc : Prop :=
  (∀ (i : Instr) (s : State), (∀ b, i ≠ .proc b) → ∃ t, exec i s = .next t ∧ exec i t = .next t)
    ∧ ∀ (b : Byte) (s : State), s.count.toNat + 2 < 2 ^ 64 →
        ∃ t u, exec (.proc b) s = .next t ∧ exec (.proc b) t = .next u ∧ t.count ≠ s.count ∧ u.count ≠ t.count

/-- R166: in one step the counter becomes 0 from another value only at a reset edge, or where INIT, INITB or, at the
counter's bound under WRAP, PROC is executed. That the command's write comes at the very edge that presents its response
(no wait is left) is the model's choice: R72 only has it in place by then (log entries 1 and 8). The PROC case has no
witness, because nothing can be proved of CNT_OVF (log entry 4); `incCount` at the bound is tested for both values. -/
def Obligations.OnlyConstructionClearsCounter : Prop :=
  ∀ s t : State, step s = .next t → s.count ≠ 0#64 → t.count = 0#64 →
    s.nextEdge.pins.rst = true
      ∨ s.phase = .receiving ∧ s.latLeft = 0
        ∧ (decode s.cmdReg = .ok .init ∨ (∃ r, decode s.cmdReg = .ok (.initb r))
          ∨ (∃ b, decode s.cmdReg = .ok (.proc b)) ∧ s.count = BitVec.allOnes 64 ∧ Config.cntOvf = .wrap)

/-! ## Sequences of commands -/

/-- R24: COUNT is the number of PROC commands since the last construction, while that number is below 2^64; ILLEGAL words
do not count. -/
def Obligations.CounterCountsProcs : Prop :=
  ∀ (cs : List HostCmd) (n : Nat) (s : State), s.count.toNat = n → procsSince cs n < 2 ^ 64 →
    ∃ u rs, runCommands cs s = some (u, rs) ∧ u.count.toNat = procsSince cs n

/-- R27, R38: LAST_VALID is 1 exactly when a PROC was executed since the last construction. -/
def Obligations.LastValidTellsProc : Prop :=
  ∀ (cs : List HostCmd) (s : State),
    ∃ u rs, runCommands cs s = some (u, rs) ∧ u.lastValid = procSeen cs s.lastValid

/-- R57: commands take effect in order; a later part of a sequence sees exactly what the earlier part left, and each
command has one response, in the order of the commands. -/
def Obligations.CommandsCompose : Prop :=
  ∀ (cs ds : List HostCmd) (s : State),
    ∃ u rs v rs', runCommands cs s = some (u, rs) ∧ runCommands ds u = some (v, rs')
      ∧ runCommands (cs ++ ds) s = some (v, rs ++ rs') ∧ rs.length = cs.length

/-- R121: the echo stream of a sequence is the concatenation, in order, of the output sequences of its PROC commands. -/
def Obligations.EchoStreamConcatenates : Prop :=
  ∀ (cs : List HostCmd) (s : State),
    ∃ u rs, runCommands cs s = some (u, rs)
      ∧ echoStream cs rs = cs.flatMap fun c =>
          match decode c.word with
          | .ok (.proc b) => procOutput s.echoMode b
          | _ => []

/-! ## Reset and invariants -/

/-- R37: the reset values that the spec gives. -/
def Obligations.ResetValues : Prop :=
  State.reset.count = 0#64 ∧ State.reset.baud = 115200#32 ∧ State.reset.lastValid = false
    ∧ State.reset.lastByte = 0x00#8 ∧ State.reset.phase = .idle ∧ State.reset.rspPend = false

/-- The invariant of Safety.lean holds at reset, which is a transaction boundary (R29, R38). -/
def Obligations.InvariantAtReset : Prop := State.reset.Inv ∧ State.reset.AtBoundary

/-- R38: every step, whatever the host does, keeps BAUD in its interval, keeps LAST_BYTE and COUNT at 0 while LAST_VALID
is 0, and keeps RSP_PEND equal to PHASE = ECHOING. -/
def Obligations.StepKeepsInvariant : Prop :=
  ∀ s t : State, s.Inv → step s = .next t → t.Inv

/-- R220, R222: at an edge with rst = 1 every state element takes its reset value, also with a command in flight or a
response held, and while rst = 1 the block neither accepts a command nor presents a response. -/
def Obligations.ResetEdge : Prop :=
  ∀ s : State, s.nextEdge.pins.rst = true →
    cmdReadyPin s.nextEdge s = false ∧ rspValidPin s.nextEdge s = false
      ∧ transferred s.nextEdge s = none
      ∧ ∃ t, step s = .next t ∧ t.count = 0#64 ∧ t.baud = 115200#32 ∧ t.lastValid = false
        ∧ t.lastByte = 0x00#8 ∧ t.phase = .idle ∧ t.rspPend = false

/-- R223, R72: in the first cycle with rst = 0 after a reset edge cmd_ready is 1, and a command presented at its edge is
accepted: the phase becomes RECEIVING and cmd_word is sampled. The word sampled is the cmd_word of this cycle when the
host has kept its duty to hold a word (R205), and one of the words it has presented otherwise (R206; the record of what
the host presented is the model's field: log entry 9). -/
def Obligations.ReadyAfterReset : Prop :=
  ∀ s : State, s.nextEdge.pins.rst = true →
    ∃ t, step s = .next t
      ∧ (t.nextEdge.pins.rst = false → cmdReadyPin t.nextEdge t = true
        ∧ (t.nextEdge.pins.cmdValid = true →
            ∃ u, step t = .next u ∧ u.phase = .receiving ∧ u.cmdReg ∈ t.nextEdge.pins.cmdWord :: t.offer.words
              ∧ (HostHolds t.nextEdge t → u.cmdReg = t.nextEdge.pins.cmdWord)))

/-- R10: no step writes ECHO_MODE (that it is a field of State is the model's choice: log entry 3). -/
def Obligations.EchoModeIsFixed : Prop :=
  ∀ s t : State, step s = .next t → t.echoMode = s.echoMode

/-- R224: at a transaction boundary, an edge with rst low at which no command is presented changes no state; the cycle
only leaves the schedule (log entry 2), and the record of the host notes it (log entry 9). For COUNT, BAUD, LAST_VALID,
LAST_BYTE, PHASE and RSP_PEND that is the rule; that RSP_ERR and RSP_DATA stay as they are, which R30 leaves at any
value, is the model's choice (log entry 6). -/
def Obligations.StateIsKept : Prop :=
  ∀ s : State, s.nextEdge.pins.rst = false → s.AtBoundary → s.nextEdge.pins.cmdValid = false →
    step s = .next { s with offer := ⟨s.offer.words, noteDuty s.nextEdge.pins s.offer.duty⟩, inputs := s.inputs.tail }

/-! ## The port -/

/-- R72: at the edge where a command transfers the block samples cmd_word and becomes RECEIVING. The host is assumed to
keep its duty to hold the word (R205). That nothing else of R20 changes at this edge is the model's choice: R72 lets the
command's writes come at any time up to the edge that presents the response (log entry 1), and R30 leaves RSP_ERR and
RSP_DATA at any value (log entry 6). The register of the sampled word, the wait drawn, the record of the host and
the schedule are the model's fields (log entries 2, 5, 7, 8, 9). -/
def Obligations.CommandAccepted : Prop :=
  ∀ s : State, s.AtBoundary → s.nextEdge.pins.rst = false → s.nextEdge.pins.cmdValid = true →
    HostHolds s.nextEdge s →
    step s = .next { s with
      cmdReg := s.nextEdge.pins.cmdWord, phase := .receiving, latLeft := s.nextEdge.free.lat
      offer := ⟨noteWord s.nextEdge.pins s.offer.words, .clear⟩, inputs := s.inputs.tail }

/-- R206, R205: when the host has broken its duty to hold the word, the word sampled is not specified: it is one of the
words the host has presented while cmd_valid was 1, and each of them is sampled for some value of the free choice. When
the host has kept its duty it is cmd_word. The later parts say what the record of the host is (the model's field: log
entry 9): after every edge, a transfer and a reset edge too, it holds exactly the words before and the one presented in
the cycle; the duty is over at a transfer; at any other edge a word waits exactly when it is on the port and waited
before or none did, and the duty is broken exactly when it was before or a word waited and is not on the port. That the
duty of a transfer ends with it, so that one break does not spoil the transfers after it, is DEDUCED (log entry 9). -/
def Obligations.SampledWordWasPresented : Prop :=
  (∀ s : State, s.AtBoundary → s.nextEdge.pins.rst = false → s.nextEdge.pins.cmdValid = true →
      ∃ t, step s = .next t ∧ t.phase = .receiving ∧ t.cmdReg ∈ s.nextEdge.pins.cmdWord :: s.offer.words
        ∧ (HostHolds s.nextEdge s → t.cmdReg = s.nextEdge.pins.cmdWord))
    ∧ (∀ (s : State) (p : Pins) (f : Free) (es : List Edge) (w : CmdWord), s.AtBoundary → p.rst = false →
        p.cmdValid = true → noteDuty p s.offer.duty = .broken → w ∈ p.cmdWord :: s.offer.words →
        ∃ n t, step { s with inputs := ⟨p, { f with pick := n }⟩ :: es } = .next t ∧ t.cmdReg = w)
    ∧ (∀ s t : State, step s = .next t →
        ∀ w, w ∈ t.offer.words ↔ w ∈ s.offer.words ∨ (s.nextEdge.pins.cmdValid = true ∧ s.nextEdge.pins.cmdWord = w))
    ∧ (∀ s t : State, step s = .next t → accepted s.nextEdge s ≠ none → t.offer.duty = .clear)
    ∧ ∀ s t : State, step s = .next t → accepted s.nextEdge s = none →
        (∀ w, t.offer.duty = .holding w ↔
            (s.nextEdge.pins.cmdValid = true ∧ s.nextEdge.pins.cmdWord = w)
              ∧ (s.offer.duty = .clear ∨ s.offer.duty = .holding w))
          ∧ (t.offer.duty = .broken ↔ s.offer.duty = .broken
              ∨ ∃ w, s.offer.duty = .holding w
                  ∧ ¬ (s.nextEdge.pins.cmdValid = true ∧ s.nextEdge.pins.cmdWord = w))

/-- R72: cmd_ready is 1 exactly when PHASE = IDLE, RSP_PEND = 0 and rst = 0, whatever cmd_valid is. -/
def Obligations.CommandReady : Prop :=
  ∀ (e : Edge) (s : State),
    (cmdReadyPin e s = true ↔ s.phase = .idle ∧ s.rspPend = false ∧ e.pins.rst = false)
      ∧ ∀ v, cmdReadyPin { e with pins := { e.pins with cmdValid := v } } s = cmdReadyPin e s

/-- R72, R227: while a command is in flight or a response is held, no command transfers: cmd_ready is 0 and, but at a
reset edge, the word in flight stays what it is (its register is the model's: log entry 7). -/
def Obligations.OneCommandInFlight : Prop :=
  ∀ s t : State, ¬ s.AtBoundary → s.nextEdge.pins.rst = false → step s = .next t →
    cmdReadyPin s.nextEdge s = false ∧ t.cmdReg = s.cmdReg

/-- R72, R12, R54: from a state with a word in flight, whatever the latency left and whatever the host drives but a reset,
the response and all the command's effects are there one edge after the wait, exactly as the transaction gives them;
beside them only the wait, the record of the host and the schedule have moved. That no effect comes earlier, and that
nothing is presented past the schedule's end, is the model's choice, and the fields of the port are its own (log
entries 1, 2, 7, 8, 9). -/
def Obligations.LatencyThenTransaction : Prop :=
  ∀ s t : State, s.phase = .receiving → s.rspPend = false →
    (∀ k ≤ s.latLeft, ((s.inputs.drop k).headD quietEdge).pins.rst = false) →
    transact s.cmdReg s = .next t →
    ∃ u, runSteps (s.latLeft + 1) s = .next u
      ∧ u = { t with latLeft := 0, offer := u.offer, inputs := s.inputs.drop (s.latLeft + 1) }

/-- While LAT has not elapsed, an edge without reset changes only the wait, the record of the host and the schedule: no
response shows and no register moves. That the command's writes do not come earlier (log entry 1) and that RSP_ERR and
RSP_DATA stay meanwhile (log entry 6) is the model's choice; the fields that move are its own (log entries 2, 8, 9). -/
def Obligations.WaitingChangesNothing : Prop :=
  ∀ (s : State) (n : Nat), s.phase = .receiving → s.rspPend = false → s.latLeft = n + 1 →
    s.nextEdge.pins.rst = false →
    ∃ t, step s = .next t
      ∧ t = { s with latLeft := n, offer := t.offer, inputs := s.inputs.tail }

/-- R73: while RSP_PEND = 1 and the host does not take the response, rsp_valid is 1 and rsp_err and rsp_data are stable;
nothing else moves but the record of the host and the schedule (the model's fields: log entries 2 and 9). -/
def Obligations.ResponseIsHeld : Prop :=
  ∀ s : State, s.rspPend = true → s.nextEdge.pins.rst = false → s.nextEdge.pins.rspReady = false →
    rspValidPin s.nextEdge s = true ∧ rspErrPin s.nextEdge s = s.rspErr ∧ rspDataPin s.nextEdge s = s.rspData
      ∧ ∃ t, step s = .next t ∧ t = { s with offer := t.offer, inputs := s.inputs.tail }

/-- R73: at the edge where the response transfers it is the one held, RSP_PEND becomes 0 and PHASE IDLE, cmd_ready is 1
in the next cycle without reset, and the architectural state stays. -/
def Obligations.ResponseIsTaken : Prop :=
  ∀ s : State, s.rspPend = true → s.nextEdge.pins.rst = false → s.nextEdge.pins.rspReady = true →
    transferred s.nextEdge s = some (s.rspErr, s.rspData)
      ∧ ∃ t, step s = .next t ∧ t.arch = s.arch ∧ t.rspPend = false ∧ t.phase = .idle
        ∧ ∀ e : Edge, e.pins.rst = false → cmdReadyPin e t = true

/-- R206: a response that the host never takes is held for ever; the block accepts no command meanwhile (past its end
the schedule takes nothing: log entry 2). -/
def Obligations.UntakenResponseHangs : Prop :=
  ∀ (k : Nat) (s : State), s.rspPend = true → s.phase = .echoing →
    (∀ e ∈ s.inputs, e.pins.rst = false ∧ e.pins.rspReady = false) →
    ∃ t, runSteps k s = .next t ∧ t.phase = .echoing ∧ t.held = some (s.rspErr, s.rspData)
      ∧ t.arch = s.arch ∧ ∀ e : Edge, cmdReadyPin e t = false

/-- R119: without reset the phase goes IDLE, RECEIVING, ECHOING, IDLE, or stays; no other transition is made. -/
def Obligations.PhasesInOrder : Prop :=
  ∀ s t : State, s.Inv → s.nextEdge.pins.rst = false → step s = .next t →
    t.phase = s.phase ∨ s.phase = .idle ∧ t.phase = .receiving ∨ s.phase = .receiving ∧ t.phase = .echoing
      ∨ s.phase = .echoing ∧ t.phase = .idle

/-- R229, R25: cfg_baud shows BAUD, except that while a SETBAUD, INIT or INITB is in flight it shows the old or the new
BAUD, as the free value says; other words in flight do not move it. -/
def Obligations.CfgBaudWindow : Prop :=
  ∀ (e : Edge) (s : State),
    (s.phase ≠ .receiving → cfgBaudPin e s = s.baud)
      ∧ (s.phase = .receiving → cfgBaudPin e s =
          if e.free.cfgNew then
            match decode s.cmdReg with
            | .ok (.setbaud r) => clampRate r
            | .ok (.initb r) => clampRate r
            | .ok .init => 115200#32
            | _ => s.baud
          else s.baud)

/-- R6: the port level refines the transaction level. First part: after any number of edges without reset, whatever the
host drives, with any latencies and any open values, the architectural state is the one that the transactions of the
words transferred so far give (all but the last of them while the last waits out its latency), and the responses taken,
with the one still held, are theirs in order. Second part: a host that keeps its duties, after any number of idle cycles
before each command and any number of cycles before it takes each response, gets through the whole sequence, and only
the word last sampled, its spent wait and the record of the host differ from what the transactions leave. The schedule, and the edge at which a
command's effects land, are the model's (log entries 1, 2, 5, 7, 8, 9). -/
def Obligations.PortRefinesTransactions : Prop :=
  (∀ (k : Nat) (s t : State), s.AtBoundary →
      (∀ j < k, ((s.inputs.drop j).headD quietEdge).pins.rst = false) → runSteps k s = .next t →
      ∃ cs u rs, runCommands cs s = some (u, rs) ∧ t.arch = u.arch
        ∧ ((t.phase = .idle ∧ t.rspPend = false)
              ∧ acceptedIn k s = cs.map (·.word) ∧ takenIn k s = rs
            ∨ (t.phase = .receiving ∧ t.rspPend = false)
              ∧ acceptedIn k s = cs.map (·.word) ++ [t.cmdReg] ∧ takenIn k s = rs
            ∨ (t.phase = .echoing ∧ t.rspPend = true)
              ∧ acceptedIn k s = cs.map (·.word) ∧ takenIn k s ++ [(t.rspErr, t.rspData)] = rs))
    ∧ ∀ (hs : List HostTurn) (s : State) (rest : List Edge),
        s.AtBoundary → s.offer.duty = .clear → s.inputs = scriptOf hs ++ rest →
        ∃ u rs t, runCommands (hs.map (·.cmd)) s = some (u, rs)
          ∧ runSteps (scriptOf hs).length s = .next t
          ∧ acceptedIn (scriptOf hs).length s = hs.map (·.cmd.word)
          ∧ takenIn (scriptOf hs).length s = rs
          ∧ t = { u with cmdReg := t.cmdReg, latLeft := t.latLeft, offer := t.offer, inputs := rest }
          ∧ t.offer.duty = .clear

/-! ## Assembly syntax -/

/-- R94, R95: PROCS with a text stands for one PROC per character, in order, with the character's code, and PROC with a
character literal for the PROC of its code; the escapes of R94 apply in both. A character that stands for itself is any
ASCII character but the closing mark and the backslash: that its code is the ASCII code is log entry 13, that a
semicolon between the marks starts no comment and that the closing mark cannot stand for itself is the model's choice
(log entry 17). -/
def Obligations.ProcsExpandsPerCharacter : Prop :=
  (∀ text : List TextItem, (∀ x ∈ text, x.MayStand chDouble) →
      asmLine (['P', 'R', 'O', 'C', 'S', ' ', chDouble] ++ text.flatMap TextItem.chars ++ [chDouble])
        = some (text.map fun x => encode (.proc x.code)))
    ∧ ∀ x : TextItem, x.MayStand chQuote →
        asmLine (['P', 'R', 'O', 'C', ' ', chQuote] ++ x.chars ++ [chQuote]) = some [encode (.proc x.code)]

/-- R95: ERASE is PROC 0x08 and DEFBAUD is SETBAUD 115200. -/
def Obligations.PseudoInstructionsExpand : Prop :=
  asmLine ['E', 'R', 'A', 'S', 'E'] = some [0x0100000008#40]
    ∧ asmLine ['D', 'E', 'F', 'B', 'A', 'U', 'D'] = some [0x040001C200#40]
end

