-- ==== Sys2Proof/Laws/Assembler.lean ====
section
/-!
SUPPORT. One character of a quoted text.
-/
namespace Sys2Proof.Machine

/-- The closing character ends the text. -/
theorem quoted_close (close : Char) (cs : List Char) : quoted close (close :: cs) = some ([], cs) := by
  unfold quoted
  simp

/-- A character that is neither the closing one nor a backslash stands for its code. -/
theorem quoted_plain {close c : Char} {cs tail : List Char} {bs : List Byte} (hc : c ≠ close) (hb : c ≠ chBackslash)
    (ha : c.toNat < 128) (h : quoted close cs = some (bs, tail)) :
    quoted close (c :: cs) = some (BitVec.ofNat 8 c.toNat :: bs, tail) := by
  rw [quoted.eq_def]
  simp [hc, hb, ha, plainCode, h]

/-- A backslash and a letter of the list of escapes stand for the code of the escape. -/
theorem quoted_escape {close e : Char} {cs tail : List Char} {bs : List Byte} {v : Byte} (hb : close ≠ chBackslash)
    (he : e ≠ 'x') (hv : escapeCode e = some v) (h : quoted close cs = some (bs, tail)) :
    quoted close (chBackslash :: e :: cs) = some (v :: bs, tail) := by
  rw [quoted.eq_def]
  simp [hb.symm, he, hv, h]

/-- A backslash, an x and two hex digits stand for the digits' value. -/
theorem quoted_hex {close d d' : Char} {cs tail : List Char} {bs : List Byte} {v : Nat} (hb : close ≠ chBackslash)
    (hv : number 16 [d, d'] = some v) (h : quoted close cs = some (bs, tail)) :
    quoted close (chBackslash :: 'x' :: d :: d' :: cs) = some (BitVec.ofNat 8 v :: bs, tail) := by
  rw [quoted.eq_def]
  simp [hb.symm, hv, h]

end Sys2Proof.Machine
end

