-- ==== Sys2Proof/Laws/Decode.lean ====
section
/-!
SUPPORT. Fields of a word built from its opcode and its argument, and the other way round: what proofs about the
decoder and the encoder cite instead of unfolding bit extractions.
-/
namespace Sys2Proof

/-- The opcode of a word is its value divided by 2^32. -/
theorem opOf_toNat (w : CmdWord) : (opOf w).toNat = w.toNat / 2 ^ 32 := by
  have := w.isLt
  simp only [opOf, BitVec.extractLsb'_toNat, Nat.shiftRight_eq_div_pow]
  omega

/-- The argument of a word is its value modulo 2^32. -/
theorem argOf_toNat (w : CmdWord) : (argOf w).toNat = w.toNat % 2 ^ 32 := by
  simp [argOf, BitVec.extractLsb'_toNat]

theorem byteOf_toNat (arg : Rate) : (byteOf arg).toNat = arg.toNat % 2 ^ 8 := by
  simp [byteOf, BitVec.extractLsb'_toNat]

theorem reservedOf_toNat (arg : Rate) : (reservedOf arg).toNat = arg.toNat / 2 ^ 8 := by
  have := arg.isLt
  simp only [reservedOf, BitVec.extractLsb'_toNat, Nat.shiftRight_eq_div_pow]
  omega

/-- The value of a concatenation. -/
theorem append_toNat {n m : Nat} (x : BitVec n) (y : BitVec m) :
    (x ++ y).toNat = x.toNat * 2 ^ m + y.toNat := by
  rw [BitVec.toNat_append, ← Nat.shiftLeft_add_eq_or_of_lt y.isLt, Nat.shiftLeft_eq]

theorem mkWord_toNat (op : BitVec 8) (arg : Rate) :
    (mkWord op arg).toNat = op.toNat * 2 ^ 32 + arg.toNat := append_toNat op arg

@[simp] theorem opOf_mkWord (op : BitVec 8) (arg : Rate) : opOf (mkWord op arg) = op := by
  have := arg.isLt
  apply BitVec.eq_of_toNat_eq
  rw [opOf_toNat, mkWord_toNat]
  omega

@[simp] theorem argOf_mkWord (op : BitVec 8) (arg : Rate) : argOf (mkWord op arg) = arg := by
  have := arg.isLt
  apply BitVec.eq_of_toNat_eq
  rw [argOf_toNat, mkWord_toNat]
  omega

@[simp] theorem mkWord_opOf_argOf (w : CmdWord) : mkWord (opOf w) (argOf w) = w := by
  apply BitVec.eq_of_toNat_eq
  rw [mkWord_toNat, opOf_toNat, argOf_toNat]
  omega

theorem mkWord_inj {op op' : BitVec 8} {arg arg' : Rate} :
    mkWord op arg = mkWord op' arg' ↔ op = op' ∧ arg = arg' := by
  constructor
  · intro h
    exact ⟨by simpa using congrArg opOf h, by simpa using congrArg argOf h⟩
  · rintro ⟨rfl, rfl⟩
    rfl

@[simp] theorem byteOf_append (h : BitVec 24) (b : Byte) : byteOf (h ++ b) = b := by
  have := b.isLt
  apply BitVec.eq_of_toNat_eq
  rw [byteOf_toNat, append_toNat]
  omega

@[simp] theorem reservedOf_append (h : BitVec 24) (b : Byte) : reservedOf (h ++ b) = h := by
  have := b.isLt
  apply BitVec.eq_of_toNat_eq
  rw [reservedOf_toNat, append_toNat]
  omega

@[simp] theorem append_byteOf (arg : Rate) : reservedOf arg ++ byteOf arg = arg := by
  apply BitVec.eq_of_toNat_eq
  rw [append_toNat, byteOf_toNat, reservedOf_toNat]
  omega

end Sys2Proof
end

