-- ==== Sys2Proof/Laws/Lut.lean ====
section
/-!
SUPPORT. The table of ranges leaves no byte out and gives no byte two classes.
-/
namespace Sys2Proof.Machine

/-- Exactly one row of the table holds each byte (30_encoding R89). -/
theorem lutRows_cover : ∀ b : Byte, (lutRows.filter fun r => r.holds b).length = 1 := by decide

end Sys2Proof.Machine
end

