-- ==== Sys2Proof/Laws/State.lean ====
section
/-!
SUPPORT. What each update of the state leaves in each field, so that no later proof unfolds a record update.
-/
namespace Sys2Proof.Machine

/-! ### writeCount -/

@[simp] theorem State.writeCount_count (v : Data) (s : State) : (s.writeCount v).count = v := rfl
@[simp] theorem State.writeCount_baud (v : Data) (s : State) : (s.writeCount v).baud = s.baud := rfl
@[simp] theorem State.writeCount_lastValid (v : Data) (s : State) : (s.writeCount v).lastValid = s.lastValid := rfl
@[simp] theorem State.writeCount_lastByte (v : Data) (s : State) : (s.writeCount v).lastByte = s.lastByte := rfl
@[simp] theorem State.writeCount_phase (v : Data) (s : State) : (s.writeCount v).phase = s.phase := rfl
@[simp] theorem State.writeCount_rspPend (v : Data) (s : State) : (s.writeCount v).rspPend = s.rspPend := rfl
@[simp] theorem State.writeCount_rspErr (v : Data) (s : State) : (s.writeCount v).rspErr = s.rspErr := rfl
@[simp] theorem State.writeCount_rspData (v : Data) (s : State) : (s.writeCount v).rspData = s.rspData := rfl
@[simp] theorem State.writeCount_cmdReg (v : Data) (s : State) : (s.writeCount v).cmdReg = s.cmdReg := rfl
@[simp] theorem State.writeCount_latLeft (v : Data) (s : State) : (s.writeCount v).latLeft = s.latLeft := rfl
@[simp] theorem State.writeCount_offer (v : Data) (s : State) : (s.writeCount v).offer = s.offer := rfl
@[simp] theorem State.writeCount_echoMode (v : Data) (s : State) : (s.writeCount v).echoMode = s.echoMode := rfl
@[simp] theorem State.writeCount_inputs (v : Data) (s : State) : (s.writeCount v).inputs = s.inputs := rfl

/-! ### writeBaud -/

@[simp] theorem State.writeBaud_count (r : Rate) (s : State) : (s.writeBaud r).count = s.count := rfl
@[simp] theorem State.writeBaud_baud (r : Rate) (s : State) : (s.writeBaud r).baud = clampRate r := rfl
@[simp] theorem State.writeBaud_lastValid (r : Rate) (s : State) : (s.writeBaud r).lastValid = s.lastValid := rfl
@[simp] theorem State.writeBaud_lastByte (r : Rate) (s : State) : (s.writeBaud r).lastByte = s.lastByte := rfl
@[simp] theorem State.writeBaud_phase (r : Rate) (s : State) : (s.writeBaud r).phase = s.phase := rfl
@[simp] theorem State.writeBaud_rspPend (r : Rate) (s : State) : (s.writeBaud r).rspPend = s.rspPend := rfl
@[simp] theorem State.writeBaud_rspErr (r : Rate) (s : State) : (s.writeBaud r).rspErr = s.rspErr := rfl
@[simp] theorem State.writeBaud_rspData (r : Rate) (s : State) : (s.writeBaud r).rspData = s.rspData := rfl
@[simp] theorem State.writeBaud_cmdReg (r : Rate) (s : State) : (s.writeBaud r).cmdReg = s.cmdReg := rfl
@[simp] theorem State.writeBaud_latLeft (r : Rate) (s : State) : (s.writeBaud r).latLeft = s.latLeft := rfl
@[simp] theorem State.writeBaud_offer (r : Rate) (s : State) : (s.writeBaud r).offer = s.offer := rfl
@[simp] theorem State.writeBaud_echoMode (r : Rate) (s : State) : (s.writeBaud r).echoMode = s.echoMode := rfl
@[simp] theorem State.writeBaud_inputs (r : Rate) (s : State) : (s.writeBaud r).inputs = s.inputs := rfl

/-! ### recordLast -/

@[simp] theorem State.recordLast_count (b : Byte) (s : State) : (s.recordLast b).count = s.count := rfl
@[simp] theorem State.recordLast_baud (b : Byte) (s : State) : (s.recordLast b).baud = s.baud := rfl
@[simp] theorem State.recordLast_lastValid (b : Byte) (s : State) : (s.recordLast b).lastValid = true := rfl
@[simp] theorem State.recordLast_lastByte (b : Byte) (s : State) : (s.recordLast b).lastByte = b := rfl
@[simp] theorem State.recordLast_phase (b : Byte) (s : State) : (s.recordLast b).phase = s.phase := rfl
@[simp] theorem State.recordLast_rspPend (b : Byte) (s : State) : (s.recordLast b).rspPend = s.rspPend := rfl
@[simp] theorem State.recordLast_rspErr (b : Byte) (s : State) : (s.recordLast b).rspErr = s.rspErr := rfl
@[simp] theorem State.recordLast_rspData (b : Byte) (s : State) : (s.recordLast b).rspData = s.rspData := rfl
@[simp] theorem State.recordLast_cmdReg (b : Byte) (s : State) : (s.recordLast b).cmdReg = s.cmdReg := rfl
@[simp] theorem State.recordLast_latLeft (b : Byte) (s : State) : (s.recordLast b).latLeft = s.latLeft := rfl
@[simp] theorem State.recordLast_offer (b : Byte) (s : State) : (s.recordLast b).offer = s.offer := rfl
@[simp] theorem State.recordLast_echoMode (b : Byte) (s : State) : (s.recordLast b).echoMode = s.echoMode := rfl
@[simp] theorem State.recordLast_inputs (b : Byte) (s : State) : (s.recordLast b).inputs = s.inputs := rfl

/-! ### clearLast -/

@[simp] theorem State.clearLast_count (s : State) : s.clearLast.count = s.count := rfl
@[simp] theorem State.clearLast_baud (s : State) : s.clearLast.baud = s.baud := rfl
@[simp] theorem State.clearLast_lastValid (s : State) : s.clearLast.lastValid = false := rfl
@[simp] theorem State.clearLast_lastByte (s : State) : s.clearLast.lastByte = 0x00#8 := rfl
@[simp] theorem State.clearLast_phase (s : State) : s.clearLast.phase = s.phase := rfl
@[simp] theorem State.clearLast_rspPend (s : State) : s.clearLast.rspPend = s.rspPend := rfl
@[simp] theorem State.clearLast_rspErr (s : State) : s.clearLast.rspErr = s.rspErr := rfl
@[simp] theorem State.clearLast_rspData (s : State) : s.clearLast.rspData = s.rspData := rfl
@[simp] theorem State.clearLast_cmdReg (s : State) : s.clearLast.cmdReg = s.cmdReg := rfl
@[simp] theorem State.clearLast_latLeft (s : State) : s.clearLast.latLeft = s.latLeft := rfl
@[simp] theorem State.clearLast_offer (s : State) : s.clearLast.offer = s.offer := rfl
@[simp] theorem State.clearLast_echoMode (s : State) : s.clearLast.echoMode = s.echoMode := rfl
@[simp] theorem State.clearLast_inputs (s : State) : s.clearLast.inputs = s.inputs := rfl

/-! ### dropEdge -/

@[simp] theorem State.dropEdge_count (s : State) : s.dropEdge.count = s.count := rfl
@[simp] theorem State.dropEdge_baud (s : State) : s.dropEdge.baud = s.baud := rfl
@[simp] theorem State.dropEdge_lastValid (s : State) : s.dropEdge.lastValid = s.lastValid := rfl
@[simp] theorem State.dropEdge_lastByte (s : State) : s.dropEdge.lastByte = s.lastByte := rfl
@[simp] theorem State.dropEdge_phase (s : State) : s.dropEdge.phase = s.phase := rfl
@[simp] theorem State.dropEdge_rspPend (s : State) : s.dropEdge.rspPend = s.rspPend := rfl
@[simp] theorem State.dropEdge_rspErr (s : State) : s.dropEdge.rspErr = s.rspErr := rfl
@[simp] theorem State.dropEdge_rspData (s : State) : s.dropEdge.rspData = s.rspData := rfl
@[simp] theorem State.dropEdge_cmdReg (s : State) : s.dropEdge.cmdReg = s.cmdReg := rfl
@[simp] theorem State.dropEdge_latLeft (s : State) : s.dropEdge.latLeft = s.latLeft := rfl
@[simp] theorem State.dropEdge_offer (s : State) : s.dropEdge.offer = s.offer := rfl
@[simp] theorem State.dropEdge_echoMode (s : State) : s.dropEdge.echoMode = s.echoMode := rfl
@[simp] theorem State.dropEdge_inputs (s : State) : s.dropEdge.inputs = s.inputs.tail := rfl

/-! ### construct -/

@[simp] theorem construct_count (r : Rate) (s : State) : (construct r s).count = 0#64 := rfl
@[simp] theorem construct_baud (r : Rate) (s : State) : (construct r s).baud = clampRate r := rfl
@[simp] theorem construct_lastValid (r : Rate) (s : State) : (construct r s).lastValid = false := rfl
@[simp] theorem construct_lastByte (r : Rate) (s : State) : (construct r s).lastByte = 0x00#8 := rfl
@[simp] theorem construct_phase (r : Rate) (s : State) : (construct r s).phase = s.phase := rfl
@[simp] theorem construct_rspPend (r : Rate) (s : State) : (construct r s).rspPend = s.rspPend := rfl
@[simp] theorem construct_rspErr (r : Rate) (s : State) : (construct r s).rspErr = s.rspErr := rfl
@[simp] theorem construct_rspData (r : Rate) (s : State) : (construct r s).rspData = s.rspData := rfl
@[simp] theorem construct_cmdReg (r : Rate) (s : State) : (construct r s).cmdReg = s.cmdReg := rfl
@[simp] theorem construct_latLeft (r : Rate) (s : State) : (construct r s).latLeft = s.latLeft := rfl
@[simp] theorem construct_offer (r : Rate) (s : State) : (construct r s).offer = s.offer := rfl
@[simp] theorem construct_echoMode (r : Rate) (s : State) : (construct r s).echoMode = s.echoMode := rfl
@[simp] theorem construct_inputs (r : Rate) (s : State) : (construct r s).inputs = s.inputs := rfl

/-! ### respond -/

@[simp] theorem respond_count (err : Bool) (d : Data) (s : State) : (respond err d s).count = s.count := rfl
@[simp] theorem respond_baud (err : Bool) (d : Data) (s : State) : (respond err d s).baud = s.baud := rfl
@[simp] theorem respond_lastValid (err : Bool) (d : Data) (s : State) : (respond err d s).lastValid = s.lastValid := rfl
@[simp] theorem respond_lastByte (err : Bool) (d : Data) (s : State) : (respond err d s).lastByte = s.lastByte := rfl
@[simp] theorem respond_phase (err : Bool) (d : Data) (s : State) : (respond err d s).phase = .echoing := rfl
@[simp] theorem respond_rspPend (err : Bool) (d : Data) (s : State) : (respond err d s).rspPend = true := rfl
@[simp] theorem respond_rspErr (err : Bool) (d : Data) (s : State) : (respond err d s).rspErr = err := rfl
@[simp] theorem respond_rspData (err : Bool) (d : Data) (s : State) : (respond err d s).rspData = d := rfl
@[simp] theorem respond_cmdReg (err : Bool) (d : Data) (s : State) : (respond err d s).cmdReg = s.cmdReg := rfl
@[simp] theorem respond_latLeft (err : Bool) (d : Data) (s : State) : (respond err d s).latLeft = s.latLeft := rfl
@[simp] theorem respond_offer (err : Bool) (d : Data) (s : State) : (respond err d s).offer = s.offer := rfl
@[simp] theorem respond_echoMode (err : Bool) (d : Data) (s : State) : (respond err d s).echoMode = s.echoMode := rfl
@[simp] theorem respond_inputs (err : Bool) (d : Data) (s : State) : (respond err d s).inputs = s.inputs := rfl

/-! ### takeResponse -/

@[simp] theorem takeResponse_count (f : Free) (s : State) : (takeResponse f s).count = s.count := rfl
@[simp] theorem takeResponse_baud (f : Free) (s : State) : (takeResponse f s).baud = s.baud := rfl
@[simp] theorem takeResponse_lastValid (f : Free) (s : State) : (takeResponse f s).lastValid = s.lastValid := rfl
@[simp] theorem takeResponse_lastByte (f : Free) (s : State) : (takeResponse f s).lastByte = s.lastByte := rfl
@[simp] theorem takeResponse_phase (f : Free) (s : State) : (takeResponse f s).phase = .idle := rfl
@[simp] theorem takeResponse_rspPend (f : Free) (s : State) : (takeResponse f s).rspPend = false := rfl
@[simp] theorem takeResponse_rspErr (f : Free) (s : State) : (takeResponse f s).rspErr = f.idleErr := rfl
@[simp] theorem takeResponse_rspData (f : Free) (s : State) : (takeResponse f s).rspData = f.idleData := rfl
@[simp] theorem takeResponse_cmdReg (f : Free) (s : State) : (takeResponse f s).cmdReg = s.cmdReg := rfl
@[simp] theorem takeResponse_latLeft (f : Free) (s : State) : (takeResponse f s).latLeft = s.latLeft := rfl
@[simp] theorem takeResponse_offer (f : Free) (s : State) : (takeResponse f s).offer = s.offer := rfl
@[simp] theorem takeResponse_echoMode (f : Free) (s : State) : (takeResponse f s).echoMode = s.echoMode := rfl
@[simp] theorem takeResponse_inputs (f : Free) (s : State) : (takeResponse f s).inputs = s.inputs := rfl

/-! ### takeIllegal -/

@[simp] theorem takeIllegal_count (w : CmdWord) (c : Cause) (s : State) : (takeIllegal w c s).count = s.count := rfl
@[simp] theorem takeIllegal_baud (w : CmdWord) (c : Cause) (s : State) : (takeIllegal w c s).baud = s.baud := rfl
@[simp] theorem takeIllegal_lastValid (w : CmdWord) (c : Cause) (s : State) : (takeIllegal w c s).lastValid = s.lastValid := rfl
@[simp] theorem takeIllegal_lastByte (w : CmdWord) (c : Cause) (s : State) : (takeIllegal w c s).lastByte = s.lastByte := rfl
@[simp] theorem takeIllegal_phase (w : CmdWord) (c : Cause) (s : State) : (takeIllegal w c s).phase = .echoing := rfl
@[simp] theorem takeIllegal_rspPend (w : CmdWord) (c : Cause) (s : State) : (takeIllegal w c s).rspPend = true := rfl
@[simp] theorem takeIllegal_rspErr (w : CmdWord) (c : Cause) (s : State) : (takeIllegal w c s).rspErr = true := rfl
@[simp] theorem takeIllegal_rspData (w : CmdWord) (c : Cause) (s : State) : (takeIllegal w c s).rspData = packIllegal w c.code := rfl
@[simp] theorem takeIllegal_cmdReg (w : CmdWord) (c : Cause) (s : State) : (takeIllegal w c s).cmdReg = s.cmdReg := rfl
@[simp] theorem takeIllegal_latLeft (w : CmdWord) (c : Cause) (s : State) : (takeIllegal w c s).latLeft = s.latLeft := rfl
@[simp] theorem takeIllegal_offer (w : CmdWord) (c : Cause) (s : State) : (takeIllegal w c s).offer = s.offer := rfl
@[simp] theorem takeIllegal_echoMode (w : CmdWord) (c : Cause) (s : State) : (takeIllegal w c s).echoMode = s.echoMode := rfl
@[simp] theorem takeIllegal_inputs (w : CmdWord) (c : Cause) (s : State) : (takeIllegal w c s).inputs = s.inputs := rfl

/-! ### resetBlock -/

@[simp] theorem resetBlock_count (f : Free) (s : State) : (resetBlock f s).count = 0#64 := rfl
@[simp] theorem resetBlock_baud (f : Free) (s : State) : (resetBlock f s).baud = defaultBaud := rfl
@[simp] theorem resetBlock_lastValid (f : Free) (s : State) : (resetBlock f s).lastValid = false := rfl
@[simp] theorem resetBlock_lastByte (f : Free) (s : State) : (resetBlock f s).lastByte = 0x00#8 := rfl
@[simp] theorem resetBlock_phase (f : Free) (s : State) : (resetBlock f s).phase = .idle := rfl
@[simp] theorem resetBlock_rspPend (f : Free) (s : State) : (resetBlock f s).rspPend = false := rfl
@[simp] theorem resetBlock_rspErr (f : Free) (s : State) : (resetBlock f s).rspErr = f.idleErr := rfl
@[simp] theorem resetBlock_rspData (f : Free) (s : State) : (resetBlock f s).rspData = f.idleData := rfl
@[simp] theorem resetBlock_cmdReg (f : Free) (s : State) : (resetBlock f s).cmdReg = 0#40 := rfl
@[simp] theorem resetBlock_latLeft (f : Free) (s : State) : (resetBlock f s).latLeft = 0 := rfl
@[simp] theorem resetBlock_offer (f : Free) (s : State) : (resetBlock f s).offer = s.offer := rfl
@[simp] theorem resetBlock_echoMode (f : Free) (s : State) : (resetBlock f s).echoMode = s.echoMode := rfl
@[simp] theorem resetBlock_inputs (f : Free) (s : State) : (resetBlock f s).inputs = s.inputs := rfl

/-! ### noteOffer -/

@[simp] theorem noteOffer_count (e : Edge) (s : State) : (noteOffer e s).count = s.count := rfl
@[simp] theorem noteOffer_baud (e : Edge) (s : State) : (noteOffer e s).baud = s.baud := rfl
@[simp] theorem noteOffer_lastValid (e : Edge) (s : State) : (noteOffer e s).lastValid = s.lastValid := rfl
@[simp] theorem noteOffer_lastByte (e : Edge) (s : State) : (noteOffer e s).lastByte = s.lastByte := rfl
@[simp] theorem noteOffer_phase (e : Edge) (s : State) : (noteOffer e s).phase = s.phase := rfl
@[simp] theorem noteOffer_rspPend (e : Edge) (s : State) : (noteOffer e s).rspPend = s.rspPend := rfl
@[simp] theorem noteOffer_rspErr (e : Edge) (s : State) : (noteOffer e s).rspErr = s.rspErr := rfl
@[simp] theorem noteOffer_rspData (e : Edge) (s : State) : (noteOffer e s).rspData = s.rspData := rfl
@[simp] theorem noteOffer_cmdReg (e : Edge) (s : State) : (noteOffer e s).cmdReg = s.cmdReg := rfl
@[simp] theorem noteOffer_latLeft (e : Edge) (s : State) : (noteOffer e s).latLeft = s.latLeft := rfl
@[simp] theorem noteOffer_echoMode (e : Edge) (s : State) : (noteOffer e s).echoMode = s.echoMode := rfl
@[simp] theorem noteOffer_inputs (e : Edge) (s : State) : (noteOffer e s).inputs = s.inputs := rfl
@[simp] theorem noteOffer_offer (e : Edge) (s : State) :
    (noteOffer e s).offer = ⟨noteWord e.pins s.offer.words, noteDuty e.pins s.offer.duty⟩ := rfl

/-! ### accept -/

@[simp] theorem accept_count (e : Edge) (s : State) : (accept e s).count = s.count := rfl
@[simp] theorem accept_baud (e : Edge) (s : State) : (accept e s).baud = s.baud := rfl
@[simp] theorem accept_lastValid (e : Edge) (s : State) : (accept e s).lastValid = s.lastValid := rfl
@[simp] theorem accept_lastByte (e : Edge) (s : State) : (accept e s).lastByte = s.lastByte := rfl
@[simp] theorem accept_phase (e : Edge) (s : State) : (accept e s).phase = .receiving := rfl
@[simp] theorem accept_rspPend (e : Edge) (s : State) : (accept e s).rspPend = s.rspPend := rfl
@[simp] theorem accept_rspErr (e : Edge) (s : State) : (accept e s).rspErr = s.rspErr := rfl
@[simp] theorem accept_rspData (e : Edge) (s : State) : (accept e s).rspData = s.rspData := rfl
@[simp] theorem accept_cmdReg (e : Edge) (s : State) : (accept e s).cmdReg = sampledWord e s := rfl
@[simp] theorem accept_latLeft (e : Edge) (s : State) : (accept e s).latLeft = e.free.lat := rfl
@[simp] theorem accept_offer (e : Edge) (s : State) :
    (accept e s).offer = ⟨noteWord e.pins s.offer.words, .clear⟩ := rfl
@[simp] theorem accept_echoMode (e : Edge) (s : State) : (accept e s).echoMode = s.echoMode := rfl
@[simp] theorem accept_inputs (e : Edge) (s : State) : (accept e s).inputs = s.inputs := rfl

end Sys2Proof.Machine
end

