-- ==== Sys2Proof/Laws/Ops.lean ====
section
/-!
SUPPORT. One lemma per shared computation or operation, saying all that it can do.
-/
namespace Sys2Proof.Machine

/-- The three ways the clamp goes (42_config R160). -/
theorem clampRate_cases (r : Rate) :
    (r < minBaud ∧ clampRate r = minBaud) ∨ (maxBaud < r ∧ clampRate r = maxBaud)
      ∨ (minBaud ≤ r ∧ r ≤ maxBaud ∧ clampRate r = r) := by
  unfold clampRate
  by_cases h : r < minBaud
  · exact .inl ⟨h, if_pos h⟩
  · by_cases h' : maxBaud < r
    · exact .inr (.inl ⟨h', by rw [if_neg h, if_pos h']⟩)
    · exact .inr (.inr ⟨BitVec.not_lt.mp h, BitVec.not_lt.mp h', by rw [if_neg h, if_neg h']⟩)

/-- The increment below the bound (40_echo R117). -/
theorem incCount_below (o : CntOvf) (c : Data) (h : c.toNat < 2 ^ 64 - 1) :
    (incCount o c).toNat = c.toNat + 1 := by
  have hc : c < BitVec.allOnes 64 := by
    rw [BitVec.lt_def]
    simpa using h
  unfold incCount
  rw [if_pos hc, BitVec.toNat_add]
  simp only [BitVec.toNat_ofNat]
  omega

/-- The increment at the bound (40_echo R117). -/
@[simp] theorem incCount_bound (o : CntOvf) :
    incCount o (BitVec.allOnes 64) = match o with | .wrap => 0#64 | .saturate => BitVec.allOnes 64 := rfl

/-- Which words are in the record after a cycle: those before it and the one presented in it (60_exceptions R206). -/
theorem mem_noteWord (p : Pins) (ws : List CmdWord) (w : CmdWord) :
    w ∈ noteWord p ws ↔ w ∈ ws ∨ (p.cmdValid = true ∧ p.cmdWord = w) := by
  unfold noteWord
  cases hv : p.cmdValid
  · simp
  · by_cases hm : p.cmdWord ∈ ws
    · simp only [List.contains_iff_mem.mpr hm, Bool.not_true, Bool.and_false, Bool.false_eq_true, if_false, true_and]
      exact ⟨.inl, fun h => h.elim id fun h => h ▸ hm⟩
    · simp only [hm, List.contains_eq_mem, decide_false, Bool.not_false, Bool.and_true, if_true, List.mem_cons, true_and]
      exact ⟨fun h => h.elim (fun h => .inr h.symm) .inl, fun h => h.elim .inr fun h => .inl h.symm⟩

/-- When the duty is broken after a cycle: it was before, or a word waited and is not on the port (60_exceptions R205). -/
theorem noteDuty_broken (p : Pins) (d : Duty) :
    noteDuty p d = .broken ↔ d = .broken ∨ ∃ w, d = .holding w ∧ ¬ (p.cmdValid = true ∧ p.cmdWord = w) := by
  cases d with
  | clear => cases hv : p.cmdValid <;> simp [noteDuty, hv]
  | holding w =>
    by_cases h : p.cmdValid = true ∧ p.cmdWord = w
    · simp [noteDuty, h]
    · simp only [noteDuty, Bool.and_eq_true, beq_iff_eq, h, if_false, reduceCtorEq, false_or, true_iff]
      exact ⟨w, rfl, h⟩
  | broken => simp [noteDuty]

/-- When a word waits after a cycle: it is on the port, and it waited before or none did (60_exceptions R205). -/
theorem noteDuty_holding (p : Pins) (d : Duty) (w : CmdWord) :
    noteDuty p d = .holding w ↔ (p.cmdValid = true ∧ p.cmdWord = w) ∧ (d = .clear ∨ d = .holding w) := by
  cases d with
  | clear => cases hv : p.cmdValid <;> simp [noteDuty, hv]
  | holding v =>
    by_cases h : p.cmdValid = true ∧ p.cmdWord = v
    · simp only [noteDuty, h, beq_self_eq_true, Bool.and_self, if_true, Duty.holding.injEq, true_and, reduceCtorEq,
        false_or]
      exact ⟨fun e => ⟨e, e⟩, fun e => e.1⟩
    · simp only [noteDuty, Bool.and_eq_true, beq_iff_eq, h, if_false, reduceCtorEq, false_or, Duty.holding.injEq,
        false_iff]
      rintro ⟨⟨a, rfl⟩, rfl⟩
      exact h ⟨a, rfl⟩
  | broken => simp [noteDuty]

/-- A host that keeps its duty gets its word sampled (30_encoding R72). -/
theorem sampledWord_held {e : Edge} {s : State} (h : noteDuty e.pins s.offer.duty ≠ .broken) :
    sampledWord e s = e.pins.cmdWord := by
  unfold sampledWord
  split
  · exact absurd ‹_› h
  · rfl
  · rfl

/-- Where a sampled word can come from (60_exceptions R206). -/
theorem sampledWord_mem (e : Edge) (s : State) : sampledWord e s ∈ e.pins.cmdWord :: s.offer.words := by
  unfold sampledWord
  split
  · rw [List.getD_eq_getElem?_getD]
    cases h : (noteWord e.pins s.offer.words)[e.free.pick]? with
    | none => simp
    | some w =>
      have := (mem_noteWord _ _ _).mp (List.mem_of_getElem? h)
      rw [Option.getD_some, List.mem_cons]
      exact this.elim .inr fun h => .inl h.2.symm
  · exact List.mem_cons_self
  · exact List.mem_cons_self

/-- The record of a host that presents nothing and owes nothing stays. -/
@[simp] theorem noteOffer_quiet (e : Edge) (s : State) (h : e.pins.cmdValid = false) (hd : s.offer.duty = .clear) :
    noteOffer e s = s := by
  have hw : noteWord e.pins s.offer.words = s.offer.words := by simp [noteWord, h]
  have hn : noteDuty e.pins s.offer.duty = s.offer.duty := by rw [hd]; simp [noteDuty, h]
  rw [noteOffer, hw, hn]

/-- Every entry of the schedule of `commandEdges` keeps rst low. -/
theorem commandEdges_rst (h : HostTurn) : ∀ e ∈ commandEdges h, e.pins.rst = false := by
  intro e he
  simp only [commandEdges, List.mem_cons, List.mem_append, List.mem_replicate, List.not_mem_nil, or_false] at he
  rcases he with ⟨-, rfl⟩ | rfl | ⟨-, rfl⟩ | ⟨-, rfl⟩ | rfl <;> rfl

end Sys2Proof.Machine
end

