-- ==== Sys2Proof/Laws/PerInstr.lean ====
section
/-!
SUPPORT. Statements for all instructions, one lemma per constructor.
-/
namespace Sys2Proof.Laws.EncodedWord

/-- The encoder's word is covered by the row of spec/opcode_table.json with this mnemonic, and by no other row. -/
def Statement (i : Instr) : Prop :=
  (opcodeRows.filter fun r => r.covers (encode i)).map (·.mnemonic) =
    [match i with
      | .proc _ => "PROC"
      | .rdcnt => "RDCNT"
      | .rdbaud => "RDBAUD"
      | .setbaud _ => "SETBAUD"
      | .rdlast => "RDLAST"
      | .init => "INIT"
      | .initb _ => "INITB"
      | .clamp _ => "CLAMP"]

/-- The words that a row covers, by opcode and masked argument, when its mask keeps the whole opcode. -/
theorem covers_mkWord (name : String) (p op : BitVec 8) (q m arg : Rate) :
    OpcodeRow.covers ⟨name, mkWord p q, mkWord 0xFF#8 m⟩ (mkWord op arg) = (op == p && arg &&& m == q) := by
  have h : mkWord op arg &&& mkWord 0xFF#8 m = mkWord op (arg &&& m) := by
    have h8 : op &&& 0xFF#8 = op := BitVec.and_allOnes
    have ha : mkWord op arg &&& mkWord 0xFF#8 m = mkWord (op &&& 0xFF#8) (arg &&& m) :=
      BitVec.and_append
    rw [ha, h8]
  rw [OpcodeRow.covers, h, Bool.eq_iff_iff]
  simp [mkWord_inj]

/-- The table's rows with their masks and patterns split into opcode and argument. -/
theorem opcodeRows_split :
    opcodeRows =
      [ ⟨"PROC", mkWord 0x01#8 0#32, mkWord 0xFF#8 0xFFFFFF00#32⟩,
        ⟨"RDCNT", mkWord 0x02#8 0#32, mkWord 0xFF#8 0xFFFFFFFF#32⟩,
        ⟨"RDBAUD", mkWord 0x03#8 0#32, mkWord 0xFF#8 0xFFFFFFFF#32⟩,
        ⟨"SETBAUD", mkWord 0x04#8 0#32, mkWord 0xFF#8 0#32⟩,
        ⟨"RDLAST", mkWord 0x05#8 0#32, mkWord 0xFF#8 0xFFFFFFFF#32⟩,
        ⟨"INIT", mkWord 0x06#8 0#32, mkWord 0xFF#8 0xFFFFFFFF#32⟩,
        ⟨"INITB", mkWord 0x07#8 0#32, mkWord 0xFF#8 0#32⟩,
        ⟨"CLAMP", mkWord 0x08#8 0#32, mkWord 0xFF#8 0#32⟩ ] := by
  decide

theorem proc (b : Byte) : Statement (.proc b) := by
  have h : (0#24 ++ b : Rate) &&& 0xFFFFFF00#32 = 0#32 := by
    revert b; decide
  simp [Statement, opcodeRows_split, encode, covers_mkWord, h]

theorem rdcnt : Statement .rdcnt := by simp [Statement, opcodeRows_split, encode, covers_mkWord]

theorem rdbaud : Statement .rdbaud := by simp [Statement, opcodeRows_split, encode, covers_mkWord]

theorem setbaud (r : Rate) : Statement (.setbaud r) := by
  simp [Statement, opcodeRows_split, encode, covers_mkWord]

theorem rdlast : Statement .rdlast := by simp [Statement, opcodeRows_split, encode, covers_mkWord]

theorem init : Statement .init := by simp [Statement, opcodeRows_split, encode, covers_mkWord]

theorem initb (r : Rate) : Statement (.initb r) := by
  simp [Statement, opcodeRows_split, encode, covers_mkWord]

theorem clamp (r : Rate) : Statement (.clamp r) := by
  simp [Statement, opcodeRows_split, encode, covers_mkWord]

end Sys2Proof.Laws.EncodedWord
end

