-- ==== Sys2Proof/Laws/Step.lean ====
section
/-!
SUPPORT. What one word and one clock edge can do, said once: later proofs cite these inversions and do not unfold
`transact`, `clockEdge` or `step`.
-/
namespace Sys2Proof.Machine

/-- A word that encodes a command does what the command does. -/
theorem transact_ok {w : CmdWord} {i : Instr} (h : decode w = .ok i) (s : State) : transact w s = exec i s := by
  rw [transact, h]

/-- A word that encodes no command gives the ILLEGAL response. -/
theorem transact_error {w : CmdWord} {c : Cause} (h : decode w = .error c) (s : State) :
    transact w s = .next (takeIllegal w c s) := by
  rw [transact, h]

/-- What a word can do. -/
theorem transact_cases {w : CmdWord} {s t : State} (h : transact w s = .next t) :
    (∃ i, decode w = .ok i ∧ exec i s = .next t) ∨ (∃ c, decode w = .error c ∧ t = takeIllegal w c s) := by
  cases hd : decode w with
  | ok i => exact .inl ⟨i, rfl, by rw [← transact_ok hd, h]⟩
  | error c =>
    rw [transact_error hd] at h
    exact .inr ⟨c, rfl, (Host.Outcome.next.inj h).symm⟩

/-- A command changes these registers and no others; what it writes into them is the command's own rule. -/
theorem exec_frame {i : Instr} {s t : State} (h : exec i s = .next t) :
    t = { s with
      count := t.count, baud := t.baud, lastValid := t.lastValid, lastByte := t.lastByte
      rspPend := true, rspErr := false, rspData := t.rspData, phase := .echoing } := by
  cases i <;> (cases h; rfl)

/-- What one edge can do. -/
theorem clockEdge_cases {e : Edge} {s t : State} (h : clockEdge e s = .next t) :
    (e.pins.rst = true ∧ t = resetBlock e.free (noteOffer e s))
      ∨ (e.pins.rst = false ∧ s.rspPend = true ∧ e.pins.rspReady = true ∧ t = takeResponse e.free (noteOffer e s))
      ∨ (e.pins.rst = false ∧ s.rspPend = true ∧ e.pins.rspReady = false ∧ t = noteOffer e s)
      ∨ (e.pins.rst = false ∧ s.rspPend = false ∧ s.phase = .idle ∧ e.pins.cmdValid = true ∧ t = accept e s)
      ∨ (e.pins.rst = false ∧ s.rspPend = false ∧ s.phase = .idle ∧ e.pins.cmdValid = false ∧ t = noteOffer e s)
      ∨ (e.pins.rst = false ∧ s.rspPend = false ∧ s.phase = .receiving ∧ s.latLeft = 0
          ∧ transact s.cmdReg (noteOffer e s) = .next t)
      ∨ (∃ n, e.pins.rst = false ∧ s.rspPend = false ∧ s.phase = .receiving ∧ s.latLeft = n + 1
          ∧ t = { noteOffer e s with latLeft := n })
      ∨ (e.pins.rst = false ∧ s.rspPend = false ∧ s.phase = .echoing ∧ t = noteOffer e s) := by
  have hl : (noteOffer e s).latLeft = s.latLeft := rfl
  have hw : (noteOffer e s).fetchWord = s.cmdReg := rfl
  unfold clockEdge at h
  cases hr : e.pins.rst <;> simp only [hr, if_true, Bool.false_eq_true, if_false] at h
  · cases hp : s.rspPend <;> simp only [hp, if_true, Bool.false_eq_true, if_false] at h
    · cases hph : s.phase <;> simp only [hph] at h
      · cases hv : e.pins.cmdValid <;> simp only [hv, if_true, Bool.false_eq_true, if_false] at h <;> cases h <;> simp
      · cases hn : s.latLeft with
        | zero =>
          simp only [advance, hl, hn, hw] at h
          simp [h]
        | succ n =>
          simp only [advance, hl, hn] at h
          cases h
          simp
      · cases h; simp
    · cases hy : e.pins.rspReady <;> simp only [hy, if_true, Bool.false_eq_true, if_false] at h <;> cases h <;> simp
  · cases h; simp

/-- A step is one edge with the next cycle of the schedule. -/
theorem step_eq (s : State) : step s = clockEdge s.nextEdge s.dropEdge := rfl

/-- A step takes one cycle off the schedule. -/
theorem step_inputs {s t : State} (h : step s = .next t) : t.inputs = s.inputs.tail := by
  have hn : (noteOffer s.nextEdge s.dropEdge).inputs = s.inputs.tail := rfl
  rcases clockEdge_cases h with ⟨-, rfl⟩ | ⟨-, -, -, rfl⟩ | ⟨-, -, -, rfl⟩ | ⟨-, -, -, -, rfl⟩ | ⟨-, -, -, -, rfl⟩ |
    ⟨-, -, -, -, ht⟩ | ⟨n, -, -, -, -, rfl⟩ | ⟨-, -, -, rfl⟩
  · rfl
  · exact hn
  · exact hn
  · rfl
  · rfl
  · rcases transact_cases ht with ⟨i, -, hx⟩ | ⟨c, -, rfl⟩
    · rw [exec_frame hx]; exact hn
    · exact hn
  · exact hn
  · exact hn

/-- The edge at which the command in flight is executed (30_encoding R72). -/
theorem step_executes (s : State) (hr : s.nextEdge.pins.rst = false) (hp : s.rspPend = false)
    (hph : s.phase = .receiving) (hl : s.latLeft = 0) :
    step s = transact s.cmdReg (noteOffer s.nextEdge s.dropEdge) := by
  have hw : (noteOffer s.nextEdge s.dropEdge).fetchWord = s.cmdReg := rfl
  simp [step, clockEdge, hr, hp, hph, advance, hl, hw]

end Sys2Proof.Machine
end

