-- ==== Sys2Proof/Laws/Run.lean ====
section
/-!
SUPPORT. Runs of many edges and sequences of transactions, one step at a time.
-/
namespace Sys2Proof.Machine

/-- A run whose first step answers. -/
theorem run_of_step {k : Nat} {s t : State} (h : step s = .next t) :
    runSteps (k + 1) s = runSteps k t := by
  rw [runSteps, h]

/-- A run that goes on after another. -/
theorem run_add {a b : Nat} {s t : State} (h : runSteps a s = .next t) :
    runSteps (a + b) s = runSteps b t := by
  induction a generalizing s with
  | zero => cases h; rw [Nat.zero_add]
  | succ a ih =>
    rw [show a + 1 + b = (a + b) + 1 by omega]
    cases hs : step s with
    | next v => rw [run_of_step hs] at h ⊢; exact ih h
    | fault r => rw [runSteps, hs] at h; cases h
    | refused r => rw [runSteps, hs] at h; cases h

/-- The last edge of a run. -/
theorem run_last {k : Nat} {s t : State} (h : runSteps (k + 1) s = .next t) :
    ∃ v, runSteps k s = .next v ∧ step v = .next t := by
  induction k generalizing s with
  | zero =>
    cases hs : step s with
    | next v => rw [run_of_step hs] at h; cases h; exact ⟨s, rfl, hs⟩
    | fault r => rw [runSteps, hs] at h; cases h
    | refused r => rw [runSteps, hs] at h; cases h
  | succ k ih =>
    cases hs : step s with
    | next v => rw [run_of_step hs] at h ⊢; exact ih h
    | fault r => rw [runSteps, hs] at h; cases h
    | refused r => rw [runSteps, hs] at h; cases h

/-- A run takes its cycles off the schedule. -/
theorem run_inputs {k : Nat} {s t : State} (h : runSteps k s = .next t) : t.inputs = s.inputs.drop k := by
  induction k generalizing t with
  | zero => cases h; rfl
  | succ k ih =>
    obtain ⟨v, hv, ht⟩ := run_last h
    rw [step_inputs ht, ih hv, List.tail_drop]

/-- The responses taken at the first edge, and then the others. -/
theorem takenIn_of_step {k : Nat} {s t : State} (h : step s = .next t) :
    takenIn (k + 1) s = (transferred s.nextEdge s.dropEdge).toList ++ takenIn k t := by
  rw [takenIn, h]

/-- The responses taken in a run that goes on after another. -/
theorem takenIn_add {a b : Nat} {s t : State} (h : runSteps a s = .next t) :
    takenIn (a + b) s = takenIn a s ++ takenIn b t := by
  induction a generalizing s with
  | zero => cases h; rw [Nat.zero_add, takenIn, List.nil_append]
  | succ a ih =>
    rw [show a + 1 + b = (a + b) + 1 by omega]
    cases hs : step s with
    | next v =>
      rw [run_of_step hs] at h
      rw [takenIn_of_step hs, takenIn_of_step hs, ih h, List.append_assoc]
    | fault r => rw [runSteps, hs] at h; cases h
    | refused r => rw [runSteps, hs] at h; cases h

/-- No response transfers at an edge that holds none. -/
theorem transferred_none {e : Edge} {s : State} (h : s.rspPend = false) : transferred e s = none := by
  simp [transferred, rspValidPin, h]

/-- What a word does depends neither on the port's own fields nor changes them. -/
theorem transact_port_fields {w : CmdWord} {s t : State} (h : transact w s = .next t)
    (c : CmdWord) (p : Phase) (q : Bool) (n : Nat) (o : Offer) (es : List Edge) :
    transact w { s with cmdReg := c, phase := p, rspPend := q, latLeft := n, offer := o, inputs := es }
      = .next { t with cmdReg := c, latLeft := n, offer := o, inputs := es } := by
  rcases transact_cases h with ⟨i, hd, hx⟩ | ⟨e, hd, rfl⟩
  · rw [transact_ok hd]
    cases i <;> (cases hx; rfl)
  · rw [transact_error hd]
    rfl

/-- The transaction level sees no more of a state than its architectural part and the build: from two states that agree
on these, a word gives the same response and the same architectural part. -/
theorem transact_arch {w : CmdWord} {s s' t : State} (h : transact w s = .next t) (ha : s'.arch = s.arch)
    (hm : s'.echoMode = s.echoMode) :
    ∃ t', transact w s' = .next t' ∧ t'.arch = t.arch ∧ t'.rspErr = t.rspErr ∧ t'.rspData = t.rspData := by
  simp only [State.arch, Arch.mk.injEq] at ha
  obtain ⟨h1, h2, h3, h4⟩ := ha
  rcases transact_cases h with ⟨i, hd, hx⟩ | ⟨e, hd, rfl⟩
  · rw [transact_ok hd]
    cases i <;> (cases hx; refine ⟨_, rfl, ?_⟩; simp [State.arch, h1, h2, h3, h4, hm])
  · rw [transact_error hd]
    exact ⟨_, rfl, by simp [State.arch, h1, h2, h3, h4], rfl, rfl⟩

/-- The word that transfers at the first edge, and then the others. -/
theorem acceptedIn_of_step {k : Nat} {s t : State} (h : step s = .next t) :
    acceptedIn (k + 1) s = (accepted s.nextEdge s.dropEdge).toList ++ acceptedIn k t := by
  rw [acceptedIn, h]

/-- The words that transfer in a run that goes on after another. -/
theorem acceptedIn_add {a b : Nat} {s t : State} (h : runSteps a s = .next t) :
    acceptedIn (a + b) s = acceptedIn a s ++ acceptedIn b t := by
  induction a generalizing s with
  | zero => cases h; rw [Nat.zero_add, acceptedIn, List.nil_append]
  | succ a ih =>
    rw [show a + 1 + b = (a + b) + 1 by omega]
    cases hs : step s with
    | next v =>
      rw [run_of_step hs] at h
      rw [acceptedIn_of_step hs, acceptedIn_of_step hs, ih h, List.append_assoc]
    | fault r => rw [runSteps, hs] at h; cases h
    | refused r => rw [runSteps, hs] at h; cases h

/-- A sequence of transactions whose first word answers. -/
theorem runCommands_cons {c : HostCmd} {cs : List HostCmd} {s t u : State} {rs : List (Bool × Data)}
    (h : transact c.word s = .next t) (hu : runCommands cs (takeResponse c.free t) = some (u, rs)) :
    runCommands (c :: cs) s = some (u, (t.rspErr, t.rspData) :: rs) := by
  simp only [runCommands, h, hu]

end Sys2Proof.Machine
end

