-- ==== Sys2Proof/Tests/Slice0.lean ====
section
/-!
SUPPORT. Small tests, their expected results taken from the examples and tables of the spec (95_test_vectors unless a
line says otherwise), and for every statement with hypotheses a witness that meets them.
-/
namespace Sys2Proof.Tests
open Sys2Proof.Machine

/-! ## Helpers -/

/-- The state of table 2.6: COUNT 5, BAUD 9600, last byte 0x42. -/
def used : State := { State.reset with count := 5#64, baud := 9600#32, lastValid := true, lastByte := 0x42#8 }

/-- The same in the pass-through build. -/
def usedPass : State := { used with echoMode := .passthrough }

/-- At the counter's bound (program P7). -/
def full : State := { used with count := 0xFFFFFFFFFFFFFFFF#64 }

/-- The response of an outcome, and the architectural state after it. -/
def answer : Host.Outcome State Fault Refusal → Option ((Bool × Data) × Arch)
  | .next t => some ((t.rspErr, t.rspData), t.arch)
  | _ => none

/-- A field of the state after an outcome. -/
def after {α : Type} (f : State → α) : Host.Outcome State Fault Refusal → Option α
  | .next t => some (f t)
  | _ => none

/-- Open values that no test's expected result depends on. -/
def anyFree (lat : Nat) : Free := ⟨lat, 1, true, true, 0xDEADBEEF#64⟩

/-- A cycle: rst, cmd_valid, cmd_word, rsp_ready. -/
def cycle (rst valid : Bool) (w : CmdWord) (ready : Bool) : Edge := ⟨⟨rst, valid, w, ready⟩, anyFree 1⟩

/-- RDCNT in flight, `n` edges of waiting left, the next cycle being `e`. -/
def inFlight (n : Nat) (e : Edge) : State :=
  { used with phase := .receiving, cmdReg := 0x0200000000#40, latLeft := n, inputs := [e] }

/-- A held response, the next cycle being `e`. -/
def holding (e : Edge) : State :=
  { used with phase := .echoing, rspPend := true, rspData := 0x3082008#64, inputs := [e] }

/-! ## Smoke test of WellFormed: an ill-formed word for each check -/

theorem test_unassigned_opcodes_refused :
    (opcodeAssigned 0x0000000000#40 || opcodeAssigned 0x0900000000#40 || opcodeAssigned 0xFFFFFFFFFF#40) = false := by
  decide

theorem test_reserved_bits_refused :
    (reservedBitsZero 0x0100000100#40 || reservedBitsZero 0x0180000041#40 || reservedBitsZero 0x0200000001#40
      || reservedBitsZero 0x06FFFFFFFF#40) = false := by
  decide

theorem test_ill_formed_words :
    [0x0000000000#40, 0x0900000000#40, 0xFF12345678#40, 0x0100000100#40, 0x0380000000#40, 0x0500000010#40].map
      wordWellFormed = [false, false, false, false, false, false] := by
  decide

theorem test_well_formed_words :
    [0x01000000FF#40, 0x0200000000#40, 0x0300000000#40, 0x0400000000#40, 0x0500000000#40, 0x0600000000#40,
      0x07FFFFFFFF#40, 0x08FFFFFFFF#40].all wordWellFormed = true := by
  decide

/-! ## Decoding: words written out from the formats of 30_encoding -/

/-- OP 00000001, 24 zero bits, BYTE 01000001. -/
theorem test_decode_proc : decode 0b0000000100000000000000000000000001000001#40 = .ok (.proc 0x41#8) := by rfl

/-- OP 00000010, 32 zero bits. -/
theorem test_decode_rdcnt : decode 0b0000001000000000000000000000000000000000#40 = .ok .rdcnt := by rfl

/-- OP 00000011, 32 zero bits. -/
theorem test_decode_rdbaud : decode 0b0000001100000000000000000000000000000000#40 = .ok .rdbaud := by rfl

/-- OP 00000100, RATE with its top bit and its lowest bit set. -/
theorem test_decode_setbaud :
    decode 0b0000010010000000000000000000000000000001#40 = .ok (.setbaud 0x80000001#32) := by rfl

/-- OP 00000101, 32 zero bits. -/
theorem test_decode_rdlast : decode 0b0000010100000000000000000000000000000000#40 = .ok .rdlast := by rfl

/-- OP 00000110, 32 zero bits. -/
theorem test_decode_init : decode 0b0000011000000000000000000000000000000000#40 = .ok .init := by rfl

/-- OP 00000111, RATE 100. -/
theorem test_decode_initb : decode 0b0000011100000000000000000000000001100100#40 = .ok (.initb 100#32) := by rfl

/-- OP 00001000, RATE 100. -/
theorem test_decode_clamp : decode 0b0000100000000000000000000000000001100100#40 = .ok (.clamp 100#32) := by rfl

theorem test_decode_illegal :
    decode 0x0900000000#40 = .error .unassignedOpcode ∧ decode 0x0100000100#40 = .error .reservedBits
      ∧ decode 0xFFFFFFFFFF#40 = .error .unassignedOpcode := ⟨rfl, rfl, rfl⟩

theorem test_table_word : decodeTableWord 40 0x01000000C3 = some (.proc 0xC3#8) := by rfl

theorem test_fetch_word : answer (step (State.reset.withFetchWord 40 0x0700000064))
    = some ((false, 0x2580#64), ⟨0#64, 9600#32, false, 0x00#8⟩) := by decide

/-! ## Commands -/

/-- Part 2.1: both ends of every range of the LUT. -/
theorem test_proc_classes :
    [0x00#8, 0x07#8, 0x08#8, 0x09#8, 0x0A#8, 0x0B#8, 0x0C#8, 0x0D#8, 0x0E#8, 0x1F#8, 0x20#8, 0x2F#8, 0x30#8].map
        (fun b => packOutput (procOutput .classify b))
      = [0#64, 0#64, 0x3082008#64, 0x1000009#64, 0x100000A#64, 0#64, 0#64, 0x100000D#64, 0#64, 0#64, 0x1000020#64,
        0x100002F#64, 0x1000030#64]
    ∧ [0x39#8, 0x3A#8, 0x40#8, 0x41#8, 0x5A#8, 0x5B#8, 0x60#8, 0x61#8, 0x7A#8, 0x7B#8, 0x7E#8, 0x7F#8, 0x80#8, 0xFF#8].map
        (fun b => packOutput (procOutput .classify b))
      = [0x1000039#64, 0x100003A#64, 0x1000040#64, 0x1000041#64, 0x100005A#64, 0x100005B#64, 0x1000060#64,
        0x1000061#64, 0x100007A#64, 0x100007B#64, 0x100007E#64, 0x3082008#64, 0#64, 0#64] := by
  decide

/-- 40_echo R110, example: PROC 'A' from reset. -/
theorem test_proc : answer (exec (.proc 0x41#8) State.reset)
    = some ((false, 0x0000000001000041#64), ⟨1#64, 115200#32, true, 0x41#8⟩) := by decide

/-- Part 2.2: the pass-through build echoes 0x7F and counts it. -/
theorem test_proc_passthrough : answer (exec (.proc 0x7F#8) usedPass)
    = some ((false, 0x000000000100007F#64), ⟨6#64, 9600#32, true, 0x7F#8⟩) := by decide

/-- Part 2.3, for both values of CNT_OVF. -/
theorem test_counter_corners :
    [0#64, 0xFFFFFFFF#64, 0xFFFFFFFFFFFFFFFE#64, 0xFFFFFFFFFFFFFFFF#64].map (incCount .wrap)
        = [1#64, 0x100000000#64, 0xFFFFFFFFFFFFFFFF#64, 0#64]
      ∧ [0#64, 0xFFFFFFFF#64, 0xFFFFFFFFFFFFFFFE#64, 0xFFFFFFFFFFFFFFFF#64].map (incCount .saturate)
        = [1#64, 0x100000000#64, 0xFFFFFFFFFFFFFFFF#64, 0xFFFFFFFFFFFFFFFF#64] := by
  decide

theorem test_rdcnt : answer (exec .rdcnt used) = some ((false, 5#64), used.arch) := by decide

theorem test_rdbaud : answer (exec .rdbaud State.reset) = some ((false, 0x1C200#64), State.reset.arch) := by decide

/-- Part 2.4: a valid 0x00 is not "absent". -/
theorem test_rdlast :
    answer (exec .rdlast used) = some ((false, 0x142#64), used.arch)
      ∧ answer (exec .rdlast { used with lastByte := 0x00#8 })
        = some ((false, 0x100#64), { used with lastByte := 0x00#8 }.arch)
      ∧ answer (exec .rdlast State.reset) = some ((false, 0#64), State.reset.arch) := by decide

/-- Part 2.5. -/
theorem test_clamp_corners :
    [0#32, 1#32, 100#32, 9599#32, 9600#32, 9601#32, 921599#32, 921600#32, 921601#32, 10000000#32, 0xFFFFFFFF#32].map
        clampRate
      = [9600#32, 9600#32, 9600#32, 9600#32, 9600#32, 9601#32, 921599#32, 921600#32, 921600#32, 921600#32, 921600#32] := by
  decide

theorem test_setbaud : answer (exec (.setbaud 10000000#32) used)
    = some ((false, 0xE1000#64), ⟨5#64, 921600#32, true, 0x42#8⟩) := by decide

theorem test_clamp : answer (exec (.clamp 0#32) used) = some ((false, 0x2580#64), used.arch) := by decide

theorem test_init : answer (exec .init used)
    = some ((false, 0x1C200#64), ⟨0#64, 115200#32, false, 0x00#8⟩) := by decide

/-- Part 2.5: INITB 57600 after PROC. -/
theorem test_initb : answer (exec (.initb 57600#32) used)
    = some ((false, 0xE100#64), ⟨0#64, 57600#32, false, 0x00#8⟩) := by decide

/-- Part 2.7. -/
theorem test_illegal_words :
    [0x0000000000#40, 0xFF12345678#40, 0xFFFFFFFFFF#40, 0x0180000041#40, 0x06FFFFFFFF#40].map
        (fun w => answer (transact w used))
      = [some ((true, 0x0100000000000000#64), used.arch), some ((true, 0x010000FF12345678#64), used.arch),
        some ((true, 0x010000FFFFFFFFFF#64), used.arch), some ((true, 0x0200000180000041#64), used.arch),
        some ((true, 0x02000006FFFFFFFF#64), used.arch)] := by
  decide

/-- 10_state R29 and 30_encoding R88: the encodings of the phases and of the classes. -/
theorem test_codes :
    [Phase.idle, .receiving, .echoing].map Phase.code = [0#2, 1#2, 2#2]
      ∧ [0x00#8, 0x41#8, 0x20#8, 0x7F#8].map lutCode = [0#2, 1#2, 2#2, 3#2] := by decide

/-! ## The port: single edges of the trace of part 2.8 -/

/-- Cycle 1: the command is accepted, LAT - 1 is drawn. -/
theorem test_accept :
    after (fun t => (t.phase, t.cmdReg, t.latLeft)) (step { used with inputs := [cycle false true 0x0200000000#40 false] })
      = some (.receiving, 0x0200000000#40, 1) := by decide

/-- Cycle 6: still waiting. -/
theorem test_wait : after (fun t => (t.phase, t.latLeft, t.rspPend)) (step (inFlight 1 (cycle false false 0#40 false)))
    = some (.receiving, 0, false) := by decide

/-- Cycle 7: the response is presented. -/
theorem test_present : after (fun t => (t.phase, t.held)) (step (inFlight 0 (cycle false false 0#40 false)))
    = some (.echoing, some (false, 5#64)) := by decide

/-- Cycle 3: the host does not take the response. -/
theorem test_hold : after (fun t => (t.phase, t.held)) (step (holding (cycle false false 0#40 false)))
    = some (.echoing, some (false, 0x3082008#64)) := by decide

/-- Cycle 4: the response is taken; the command that the host presents meanwhile is not accepted. -/
theorem test_take :
    after (fun t => (t.phase, t.held, t.cmdReg)) (step (holding (cycle false true 0x0200000000#40 true)))
      = some (.idle, none, 0#40) := by decide

/-- 70_reset_and_hazards R220, R222: a reset edge with a command in flight. -/
theorem test_reset_edge :
    after (fun t => (t.arch, t.phase, t.held)) (step (inFlight 0 (cycle true true 0x0200000000#40 true)))
      = some (State.reset.arch, .idle, none) := by decide

/-- 70_reset_and_hazards R229: while SETBAUD 115200 is in flight cfg_baud shows the old or the new rate. -/
theorem test_cfg_baud_window :
    let s := { inFlight 3 quietEdge with cmdReg := 0x040001C200#40 }
    cfgBaudPin quietEdge s = 9600#32 ∧ cfgBaudPin (cycle false false 0#40 false) s = 115200#32 := by decide

/-- 60_exceptions R206: after a broken handshake a word presented earlier may be the one sampled. -/
theorem test_broken_handshake :
    after State.cmdReg
        (step { used with
          offer := ⟨[0x0300000000#40], .holding 0x0300000000#40⟩, inputs := [cycle false true 0x0200000000#40 false] })
      = some 0x0300000000#40 := by decide

/-- The same across a reset edge: a word presented while rst = 1 and changed in the next cycle. -/
theorem test_broken_across_reset :
    after State.cmdReg (runSteps 2 { used with
        inputs := [cycle true true 0x0300000000#40 false, cycle false true 0x0200000000#40 false] })
      = some 0x0300000000#40 := by decide

/-- A whole transaction of a host that keeps its duties: PROC 0x08 with LAT = 2, taken one cycle late
(30_encoding R72, R73). -/
theorem test_script_length : (scriptOf [⟨⟨0x0100000008#40, anyFree 1⟩, 0, 1⟩]).length = 5 := by decide

/-- Program P1 at the transaction level: the responses and the echo stream. -/
theorem test_echo_stream :
    echoStream [⟨0x0100000041#40, anyFree 0⟩, ⟨0x0100000008#40, anyFree 0⟩, ⟨0x0200000000#40, anyFree 0⟩]
        [(false, 0x1000041#64), (false, 0x3082008#64), (false, 2#64)]
      = [0x41#8, 0x08#8, 0x20#8, 0x08#8] := by decide

/-! ## Assembly syntax -/

/-- PROC ';' ; x -/
theorem test_asm_char : asmLine ['P', 'R', 'O', 'C', ' ', chQuote, ';', chQuote, ' ', ';', 'x'] = some [0x010000003B#40] := by
  decide

/-- setbaud 10_000_000 -/
theorem test_asm_setbaud :
    asmLine ['s', 'e', 't', 'b', 'a', 'u', 'd', ' ', '1', '0', '_', '0', '0', '0', '_', '0', '0', '0']
      = some [0x0400989680#40] := by decide

/-- PROC 256 and RDCNT 1 are errors. -/
theorem test_asm_errors :
    asmLine ['P', 'R', 'O', 'C', ' ', '2', '5', '6'] = none ∧ asmLine ['R', 'D', 'C', 'N', 'T', ' ', '1'] = none := by
  decide

/-- .cmd 0xFF12345678 -/
theorem test_asm_cmd :
    asmLine ['.', 'c', 'm', 'd', ' ', '0', 'x', 'F', 'F', '1', '2', '3', '4', '5', '6', '7', '8'] = some [0xFF12345678#40] := by
  decide

/-! ## Witnesses: the hypotheses of the statements can be met -/

theorem witness_encode_of_decode : decode 0x01000000FF#40 = .ok (.proc 0xFF#8) := by rfl

theorem witness_unassigned_opcode :
    (0x0012345678#40).toNat / 2 ^ 32 = 0 ∧ 9 ≤ (0x0900000000#40).toNat / 2 ^ 32 ∧ 9 ≤ (0xFF00000000#40).toNat / 2 ^ 32 := by
  decide

theorem witness_reserved_bits :
    ((0x0200000001#40).toNat / 2 ^ 32 = 2 ∧ (0x0200000001#40).toNat % 2 ^ 32 ≠ 0)
      ∧ ((0x0380000000#40).toNat / 2 ^ 32 = 3 ∧ (0x0380000000#40).toNat % 2 ^ 32 ≠ 0)
      ∧ ((0x0500000010#40).toNat / 2 ^ 32 = 5 ∧ (0x0500000010#40).toNat % 2 ^ 32 ≠ 0)
      ∧ ((0x06FFFFFFFF#40).toNat / 2 ^ 32 = 6 ∧ (0x06FFFFFFFF#40).toNat % 2 ^ 32 ≠ 0)
      ∧ (0x0100000100#40).toNat / 2 ^ 32 = 1 ∧ 2 ^ 8 ≤ (0x0100000100#40).toNat % 2 ^ 32 := by decide

theorem witness_illegal_word : wordWellFormed 0x0100000100#40 = false ∧ wordWellFormed 0x0900000000#40 = false := by
  decide

theorem witness_step_runs :
    let s := inFlight 0 (cycle false true 0x0300000000#40 true)
    decode s.cmdReg = .ok .rdcnt ∧ s.phase = .receiving ∧ s.rspPend = false ∧ s.latLeft = 0
      ∧ s.nextEdge.pins.rst = false := ⟨rfl, rfl, rfl, rfl, rfl⟩

/-- Each clause of the byte sets of ProcErase, ProcEchoesAlnum, ProcEchoesSymbols and ProcDrops at both its ends. -/
theorem witness_byte_sets :
    used.echoMode = .classify
      ∧ (∀ b ∈ [0x08#8, 0x7F#8], b = 0x08#8 ∨ b = 0x7F#8)
      ∧ (∀ b ∈ [0x30#8, 0x39#8, 0x41#8, 0x5A#8, 0x61#8, 0x7A#8],
          0x30#8 ≤ b ∧ b ≤ 0x39#8 ∨ 0x41#8 ≤ b ∧ b ≤ 0x5A#8 ∨ 0x61#8 ≤ b ∧ b ≤ 0x7A#8)
      ∧ (∀ b ∈ [0x09#8, 0x0A#8, 0x0D#8, 0x20#8, 0x2F#8, 0x3A#8, 0x40#8, 0x5B#8, 0x60#8, 0x7B#8, 0x7E#8],
          b = 0x09#8 ∨ b = 0x0A#8 ∨ b = 0x0D#8 ∨ 0x20#8 ≤ b ∧ b ≤ 0x2F#8 ∨ 0x3A#8 ≤ b ∧ b ≤ 0x40#8
            ∨ 0x5B#8 ≤ b ∧ b ≤ 0x60#8 ∨ 0x7B#8 ≤ b ∧ b ≤ 0x7E#8)
      ∧ (∀ b ∈ [0x00#8, 0x07#8, 0x0B#8, 0x0C#8, 0x0E#8, 0x1F#8, 0x80#8, 0xFF#8],
          b ≤ 0x07#8 ∨ 0x0B#8 ≤ b ∧ b ≤ 0x0C#8 ∨ 0x0E#8 ≤ b ∧ b ≤ 0x1F#8 ∨ 0x80#8 ≤ b) := by
  decide

/-- Both cases of the counter, in both builds (ProcCounts, ProcPassesThrough). -/
theorem witness_counter_cases :
    used.count.toNat < 2 ^ 64 - 1 ∧ full.count.toNat = 2 ^ 64 - 1 ∧ usedPass.echoMode = .passthrough
      ∧ { full with echoMode := .passthrough }.count.toNat = 2 ^ 64 - 1 :=
  ⟨by simp [used], rfl, rfl, rfl⟩

/-- Every length that ProcOutputLength speaks of. -/
theorem witness_output_lengths :
    after (fun t => outLen t.rspData) (exec (.proc 0x00#8) used) = some 0
      ∧ after (fun t => outLen t.rspData) (exec (.proc 0x41#8) used) = some 1
      ∧ after (fun t => outLen t.rspData) (exec (.proc 0x08#8) used) = some 3
      ∧ after (fun t => outLen t.rspData) (exec (.proc 0x08#8) usedPass) = some 1 := by decide

theorem witness_history : used.echoMode = State.reset.echoMode ∧ used ≠ State.reset := by decide

theorem witness_queries :
    Instr.rdcnt ∈ [Instr.rdcnt, .rdbaud, .rdlast] ∧ Instr.rdlast ∈ [Instr.rdcnt, .rdbaud, .rdlast] := by decide

/-- Each clause of ClampLaws at the bounds. -/
theorem witness_clamp_laws :
    (9599#32).toNat < 9600 ∧ 921600 < (921601#32).toNat ∧ (9600 ≤ (9600#32).toNat ∧ (9600#32).toNat ≤ 921600)
      ∧ (9600 ≤ (921600#32).toNat ∧ (921600#32).toNat ≤ 921600) ∧ 9599#32 ≤ 9600#32 := by decide

theorem witness_not_rdbaud : Instr.proc 0x41#8 ≠ .rdbaud ∧ (∀ b, Instr.setbaud 0#32 ≠ .proc b) := by
  refine ⟨by decide, ?_⟩
  intro b h
  cases h

theorem witness_below_bound : used.count.toNat + 2 < 2 ^ 64 := by simp [used]

/-- The counter goes to 0 at a reset edge and where INIT or INITB is executed (OnlyConstructionClearsCounter). -/
theorem witness_counter_cleared :
    (∃ t, step (inFlight 0 (cycle true false 0#40 false)) = .next t ∧ t.count = 0#64)
      ∧ (∃ t, step { inFlight 0 quietEdge with cmdReg := 0x0600000000#40 } = .next t ∧ t.count = 0#64)
      ∧ (∃ t, step { inFlight 0 quietEdge with cmdReg := 0x0700000064#40 } = .next t ∧ t.count = 0#64)
      ∧ (inFlight 0 quietEdge).count ≠ 0#64 :=
  ⟨⟨_, rfl, rfl⟩, ⟨_, rfl, rfl⟩, ⟨_, rfl, rfl⟩, by decide⟩

/-- A sequence with a construction in it, from a state with COUNT 5 (CounterCountsProcs). -/
theorem witness_procs_since :
    used.count.toNat = 5
      ∧ procsSince [⟨0x0100000041#40, anyFree 0⟩, ⟨0x0600000000#40, anyFree 0⟩, ⟨0x01000000FF#40, anyFree 0⟩,
          ⟨0x0900000000#40, anyFree 0⟩] 5 = 1 := by decide

theorem witness_invariant : used.Inv ∧ ∃ t, step used = .next t := ⟨by decide, _, rfl⟩

theorem witness_reset_edge :
    { used with inputs := [cycle true true 0#40 true] }.nextEdge.pins.rst = true
      ∧ (holding (cycle true true 0#40 true)).nextEdge.pins.rst = true := by decide

/-- A reset edge, then a cycle with a command (ReadyAfterReset). -/
theorem witness_ready_after_reset :
    let s := { used with inputs := [cycle true false 0#40 false, cycle false true 0x0200000000#40 false] }
    s.nextEdge.pins.rst = true
      ∧ after (fun t => (t.nextEdge.pins.rst, t.nextEdge.pins.cmdValid, decide (HostHolds t.nextEdge t))) (step s)
        = some (false, true, true) := by decide

theorem witness_state_is_kept :
    used.nextEdge.pins.rst = false ∧ used.AtBoundary ∧ used.nextEdge.pins.cmdValid = false := by decide

/-- CommandAccepted and SampledWordWasPresented: a host that holds its word, and one that does not. -/
theorem witness_accept :
    let s := { used with
      offer := ⟨[0x0200000000#40], .holding 0x0200000000#40⟩, inputs := [cycle false true 0x0200000000#40 false] }
    let s' := { used with
      offer := ⟨[0x0300000000#40], .holding 0x0300000000#40⟩, inputs := [cycle false true 0x0200000000#40 false] }
    (s.AtBoundary ∧ s.nextEdge.pins.rst = false ∧ s.nextEdge.pins.cmdValid = true ∧ HostHolds s.nextEdge s)
      ∧ (s'.AtBoundary ∧ s'.nextEdge.pins.rst = false ∧ s'.nextEdge.pins.cmdValid = true
        ∧ noteDuty s'.nextEdge.pins s'.offer.duty = .broken) := by decide

theorem witness_busy :
    let s := inFlight 2 (cycle false true 0x0300000000#40 true)
    ¬ s.AtBoundary ∧ s.nextEdge.pins.rst = false ∧ ∃ t, step s = .next t := ⟨by decide, rfl, _, rfl⟩

/-- LatencyThenTransaction and WaitingChangesNothing, with two edges to wait. -/
theorem witness_latency :
    let s := { inFlight 2 quietEdge with inputs := [cycle false true 0x0300000000#40 true, quietEdge] }
    s.phase = .receiving ∧ s.rspPend = false ∧ s.latLeft = 1 + 1 ∧ s.nextEdge.pins.rst = false
      ∧ (∀ k ≤ s.latLeft, ((s.inputs.drop k).headD quietEdge).pins.rst = false)
      ∧ ∃ t, transact s.cmdReg s = .next t := ⟨rfl, rfl, rfl, rfl, by decide, _, rfl⟩

theorem witness_held :
    let s := holding (cycle false true 0x0200000000#40 false)
    s.rspPend = true ∧ s.nextEdge.pins.rst = false ∧ s.nextEdge.pins.rspReady = false ∧ s.phase = .echoing
      ∧ ∀ e ∈ s.inputs, e.pins.rst = false ∧ e.pins.rspReady = false := by decide

theorem witness_taken :
    let s := holding (cycle false true 0x0200000000#40 true)
    s.rspPend = true ∧ s.nextEdge.pins.rst = false ∧ s.nextEdge.pins.rspReady = true ∧ s.Inv
      ∧ ∃ t, step s = .next t := ⟨rfl, rfl, rfl, by decide, _, rfl⟩

/-- CfgBaudWindow: both phases, and both values of the free choice. -/
theorem witness_cfg_baud :
    used.phase ≠ .receiving ∧ (inFlight 0 quietEdge).phase = .receiving ∧ quietEdge.free.cfgNew = false
      ∧ (cycle false false 0#40 false).free.cfgNew = true := by decide

/-- PortRefinesTransactions: a host that idles, waits and holds; and a run that ends while a response is held. -/
theorem witness_script :
    let s : State := { used with
      inputs := scriptOf [⟨⟨0x0100000041#40, anyFree 2⟩, 3, 2⟩, ⟨⟨0x0200000000#40, anyFree 0⟩, 0, 0⟩] ++ [quietEdge] }
    s.AtBoundary ∧ s.offer.duty = .clear ∧ s.inputs.length = 14
      ∧ (∀ j < 8, ((s.inputs.drop j).headD quietEdge).pins.rst = false)
      ∧ ∃ t, runSteps 8 s = .next t ∧ t.phase = .echoing :=
  ⟨by decide, rfl, rfl, by decide, _, rfl, rfl⟩

/-- The record of the host after an edge (SampledWordWasPresented): a word presented while a response is held waits, at
a transfer the duty is over, at a reset edge a changed word breaks it. -/
theorem witness_offer :
    after State.offer (step (holding (cycle false true 0x0200000000#40 false)))
        = some ⟨[0x0200000000#40], .holding 0x0200000000#40⟩
      ∧ accepted (cycle false true 0x0200000000#40 false) used = some 0x0200000000#40
      ∧ after State.offer (step { used with
          offer := ⟨[0x0200000000#40], .holding 0x0200000000#40⟩
          inputs := [cycle false true 0x0200000000#40 false] }) = some ⟨[0x0200000000#40], .clear⟩
      ∧ accepted (cycle true true 0x0300000000#40 false) used = none
      ∧ after State.offer (step { used with
          offer := ⟨[0x0200000000#40], .holding 0x0200000000#40⟩
          inputs := [cycle true true 0x0300000000#40 false] })
        = some ⟨[0x0300000000#40, 0x0200000000#40], .broken⟩ := by decide

/-- ProcsExpandsPerCharacter: a text with a semicolon, an apostrophe and every escape, and a double quote as a literal. -/
theorem witness_text :
    (∀ x ∈ [TextItem.plain 'h', .plain ';', .plain chQuote, .newline, .carriageReturn, .tab, .backslash, .apostrophe, .nul,
        .hex 7 15 true false], x.MayStand chDouble)
      ∧ (TextItem.plain chDouble).MayStand chQuote := by
  simp only [List.forall_mem_cons, List.not_mem_nil, false_imp_iff, implies_true, and_true, TextItem.MayStand]
  decide

/-- PROCS with h and the escapes for a newline and for 0x7F: 30_encoding R94, R95. -/
theorem test_asm_escapes :
    asmLine ['P', 'R', 'O', 'C', 'S', ' ', chDouble, 'h', chBackslash, 'n', chBackslash, 'x', '7', 'F', chDouble]
      = some [0x0100000068#40, 0x010000000A#40, 0x010000007F#40] := by decide

end Sys2Proof.Tests
end

/-!
SUPPORT. One edge of each kind at the port with what transfers at it, runs of many edges put together from these, and
the refinement of the transaction level (00_scope R6) with the two parts of it: what holds after any edges, and how far
a host gets that keeps its duties.
-/
namespace Sys2Proof.Machine

/-! ### Words and sequences of words -/

/-- Every word is answered (60_exceptions R190). -/
theorem transact_answers (w : CmdWord) (s : State) : ∃ t, transact w s = .next t := by
  cases hd : decode w with
  | ok i => rw [transact_ok hd]; cases i <;> exact ⟨_, rfl⟩
  | error c => exact ⟨_, transact_error hd s⟩

/-- A word changes the architectural registers and those of the response, and presents a response. -/
theorem transact_frame {w : CmdWord} {s t : State} (h : transact w s = .next t) :
    t = { s with
      count := t.count, baud := t.baud, lastValid := t.lastValid, lastByte := t.lastByte
      rspPend := true, rspErr := t.rspErr, rspData := t.rspData, phase := .echoing } := by
  rcases transact_cases h with ⟨i, -, hx⟩ | ⟨c, -, rfl⟩
  · have he : t.rspErr = false := by rw [exec_frame hx]
    rw [he]
    exact exec_frame hx
  · rfl

theorem transact_echoMode {w : CmdWord} {s t : State} (h : transact w s = .next t) : t.echoMode = s.echoMode := by
  rw [transact_frame h]

theorem transact_cmdReg {w : CmdWord} {s t : State} (h : transact w s = .next t) : t.cmdReg = s.cmdReg := by
  rw [transact_frame h]

theorem transact_latLeft {w : CmdWord} {s t : State} (h : transact w s = .next t) : t.latLeft = s.latLeft := by
  rw [transact_frame h]

theorem transact_offer {w : CmdWord} {s t : State} (h : transact w s = .next t) : t.offer = s.offer := by
  rw [transact_frame h]

theorem transact_rspPend {w : CmdWord} {s t : State} (h : transact w s = .next t) : t.rspPend = true := by
  rw [transact_frame h]

theorem transact_phase {w : CmdWord} {s t : State} (h : transact w s = .next t) : t.phase = .echoing := by
  rw [transact_frame h]

/-- What a word does is the same when a cycle has left the schedule for the record of the host. -/
theorem transact_noteOffer {w : CmdWord} {s t : State} (h : transact w s = .next t) (e : Edge) :
    transact w (noteOffer e s.dropEdge)
      = .next { t with offer := (noteOffer e s.dropEdge).offer, inputs := s.inputs.tail } :=
  (transact_port_fields h s.cmdReg s.phase s.rspPend s.latLeft _ _).trans
    (by rw [← transact_cmdReg h, ← transact_latLeft h]; rfl)

/-- What a word does is the same when it has just transferred. -/
theorem transact_accept {w : CmdWord} {s t : State} (h : transact w s = .next t) (e : Edge) :
    transact w (accept e s.dropEdge)
      = .next { t with
          cmdReg := sampledWord e s.dropEdge, latLeft := e.free.lat, offer := (accept e s.dropEdge).offer
          inputs := s.inputs.tail } :=
  transact_port_fields h _ .receiving s.rspPend _ _ _

@[simp] theorem runCommands_nil (s : State) : runCommands [] s = some (s, []) := rfl

/-- A sequence with a first word: the word is answered, and the rest runs on from there. -/
theorem runCommands_cons_inv {c : HostCmd} {cs : List HostCmd} {s u : State} {rs : List (Bool × Data)}
    (h : runCommands (c :: cs) s = some (u, rs)) :
    ∃ t rs', transact c.word s = .next t ∧ runCommands cs (takeResponse c.free t) = some (u, rs')
      ∧ rs = (t.rspErr, t.rspData) :: rs' := by
  obtain ⟨t, ht⟩ := transact_answers c.word s
  cases hc : runCommands cs (takeResponse c.free t) with
  | none => simp [runCommands, ht, hc] at h
  | some p =>
    rw [runCommands_cons ht hc] at h
    cases h
    exact ⟨t, p.2, ht, hc, rfl⟩

/-- One more word at the end of a sequence. -/
theorem runCommands_snoc {cs : List HostCmd} {c : HostCmd} {s u t : State} {rs : List (Bool × Data)}
    (h : runCommands cs s = some (u, rs)) (ht : transact c.word u = .next t) :
    runCommands (cs ++ [c]) s = some (takeResponse c.free t, rs ++ [(t.rspErr, t.rspData)]) := by
  induction cs generalizing s rs with
  | nil => cases h; exact runCommands_cons ht rfl
  | cons d ds ih =>
    obtain ⟨v, rs', hv, hds, rfl⟩ := runCommands_cons_inv h
    exact runCommands_cons hv (ih hds)

/-- What a sequence of words does depends neither on the port's own fields nor changes them. -/
theorem runCommands_port_fields {cs : List HostCmd} {s u : State} {rs : List (Bool × Data)}
    (h : runCommands cs s = some (u, rs)) (c : CmdWord) (n : Nat) (o : Offer) (es : List Edge) :
    runCommands cs { s with cmdReg := c, latLeft := n, offer := o, inputs := es }
      = some ({ u with cmdReg := c, latLeft := n, offer := o, inputs := es }, rs) := by
  induction cs generalizing s rs with
  | nil => cases h; rfl
  | cons d ds ih =>
    obtain ⟨t, rs', ht, hds, rfl⟩ := runCommands_cons_inv h
    exact runCommands_cons (t := { t with cmdReg := c, latLeft := n, offer := o, inputs := es })
      (transact_port_fields ht c s.phase s.rspPend n o es) (ih hds)

/-! ### Runs with what transfers in them -/

/-- `k` edges lead from `s` to `t`; in them the words `ws` and the responses `rs` transfer, in this order. -/
structure Runs (k : Nat) (s t : State) (ws : List CmdWord) (rs : List (Bool × Data)) : Prop where
  run : runSteps k s = .next t
  words : acceptedIn k s = ws
  responses : takenIn k s = rs

theorem Runs.zero (s : State) : Runs 0 s s [] [] := ⟨rfl, rfl, rfl⟩

theorem Runs.trans {a b : Nat} {s t u : State} {ws ws' : List CmdWord} {rs rs' : List (Bool × Data)}
    (h : Runs a s t ws rs) (h' : Runs b t u ws' rs') : Runs (a + b) s u (ws ++ ws') (rs ++ rs') where
  run := by rw [run_add h.run, h'.run]
  words := by rw [acceptedIn_add h.run, h.words, h'.words]
  responses := by rw [takenIn_add h.run, h.responses, h'.responses]

/-- An edge before a run. -/
theorem Runs.cons {k : Nat} {s t u : State} {ws ws' : List CmdWord} {rs rs' : List (Bool × Data)}
    (h : Runs 1 s t ws rs) (h' : Runs k t u ws' rs') : Runs (k + 1) s u (ws ++ ws') (rs ++ rs') :=
  Nat.add_comm 1 k ▸ h.trans h'

theorem Runs.of_step {s t : State} (h : step s = .next t) :
    Runs 1 s t (accepted s.nextEdge s.dropEdge).toList (transferred s.nextEdge s.dropEdge).toList where
  run := run_of_step h
  words := by rw [acceptedIn_of_step h, acceptedIn, List.append_nil]
  responses := by rw [takenIn_of_step h, takenIn, List.append_nil]

/-! ### What transfers at an edge -/

/-- No word transfers away from a boundary, nor when the host presents none. -/
theorem accepted_none {e : Edge} {s : State} (h : s.phase ≠ .idle ∨ s.rspPend = true ∨ e.pins.cmdValid = false) :
    accepted e s = none := by
  rcases h with h | h | h <;> simp [accepted, cmdReadyPin, h]

theorem accepted_some {e : Edge} {s : State} (hb : s.AtBoundary) (hr : e.pins.rst = false)
    (hv : e.pins.cmdValid = true) : accepted e s = some (sampledWord e s) := by
  simp [accepted, cmdReadyPin, hb.1, hb.2, hr, hv]

theorem transferred_none_of_not_ready {e : Edge} {s : State} (h : e.pins.rspReady = false) :
    transferred e s = none := by
  simp [transferred, h]

theorem transferred_some {e : Edge} {s : State} (hp : s.rspPend = true) (hr : e.pins.rst = false)
    (hy : e.pins.rspReady = true) : transferred e s = some (s.rspErr, s.rspData) := by
  simp [transferred, rspErrPin, rspDataPin, rspValidPin, hp, hr, hy]

/-! ### One edge of each kind, without reset -/

section Edges
variable {s : State} (hr : s.nextEdge.pins.rst = false)
include hr

theorem runs_idle (hb : s.AtBoundary) (hv : s.nextEdge.pins.cmdValid = false) :
    Runs 1 s (noteOffer s.nextEdge s.dropEdge) [] [] := by
  have h := Runs.of_step (s := s) (t := noteOffer s.nextEdge s.dropEdge) (by simp [step, clockEdge, hr, hb.1, hb.2, hv])
  rwa [accepted_none (.inr (.inr hv)), transferred_none (s := s.dropEdge) hb.2] at h

theorem runs_accept (hb : s.AtBoundary) (hv : s.nextEdge.pins.cmdValid = true) :
    Runs 1 s (accept s.nextEdge s.dropEdge) [sampledWord s.nextEdge s.dropEdge] [] := by
  have h := Runs.of_step (s := s) (t := accept s.nextEdge s.dropEdge) (by simp [step, clockEdge, hr, hb.1, hb.2, hv])
  rwa [accepted_some (s := s.dropEdge) hb hr hv, transferred_none (s := s.dropEdge) hb.2] at h

theorem runs_wait {n : Nat} (hph : s.phase = .receiving) (hp : s.rspPend = false) (hl : s.latLeft = n + 1) :
    Runs 1 s { noteOffer s.nextEdge s.dropEdge with latLeft := n } [] [] := by
  have h := Runs.of_step (s := s) (t := { noteOffer s.nextEdge s.dropEdge with latLeft := n })
    (by simp [step, clockEdge, hr, hph, hp, advance, hl])
  rwa [accepted_none (.inl (by simp [hph])), transferred_none (s := s.dropEdge) hp] at h

theorem runs_execute {t : State} (hph : s.phase = .receiving) (hp : s.rspPend = false) (hl : s.latLeft = 0)
    (ht : transact s.cmdReg (noteOffer s.nextEdge s.dropEdge) = .next t) : Runs 1 s t [] [] := by
  have h := Runs.of_step ((step_executes s hr hp hph hl).trans ht)
  rwa [accepted_none (.inl (by simp [hph])), transferred_none (s := s.dropEdge) hp] at h

theorem runs_hold (hp : s.rspPend = true) (hy : s.nextEdge.pins.rspReady = false) :
    Runs 1 s (noteOffer s.nextEdge s.dropEdge) [] [] := by
  have h := Runs.of_step (s := s) (t := noteOffer s.nextEdge s.dropEdge) (by simp [step, clockEdge, hr, hp, hy])
  rwa [accepted_none (s := s.dropEdge) (.inr (.inl hp)), transferred_none_of_not_ready hy] at h

theorem runs_take (hp : s.rspPend = true) (hy : s.nextEdge.pins.rspReady = true) :
    Runs 1 s (takeResponse s.nextEdge.free (noteOffer s.nextEdge s.dropEdge)) [] [(s.rspErr, s.rspData)] := by
  have h := Runs.of_step (s := s) (t := takeResponse s.nextEdge.free (noteOffer s.nextEdge s.dropEdge))
    (by simp [step, clockEdge, hr, hp, hy])
  rwa [accepted_none (s := s.dropEdge) (.inr (.inl hp)), transferred_some (s := s.dropEdge) hp hr hy] at h

end Edges

/-! ### The wait of LAT -/

/-- The edges of the wait and the edge after it do the transaction of the word in flight, and nothing transfers in
them. -/
theorem runs_latency {n : Nat} {s t : State} (hl : s.latLeft = n) (hph : s.phase = .receiving)
    (hp : s.rspPend = false) (hr : ∀ k ≤ n, ((s.inputs.drop k).headD quietEdge).pins.rst = false)
    (ht : transact s.cmdReg s = .next t) :
    ∃ o, Runs (n + 1) s { t with latLeft := 0, offer := o, inputs := s.inputs.drop (n + 1) } [] [] := by
  induction n generalizing s t with
  | zero =>
    have hx := runs_execute (hr 0 le_rfl) hph hp hl (transact_noteOffer ht _)
    exact ⟨_, by simpa [transact_latLeft ht, hl] using hx⟩
  | succ n ih =>
    have hw := runs_wait (hr 0 (Nat.zero_le _)) hph hp hl
    have hv := transact_port_fields ht s.cmdReg s.phase s.rspPend n
      (noteOffer s.nextEdge s.dropEdge).offer s.inputs.tail
    obtain ⟨o, ho⟩ := ih (s := { noteOffer s.nextEdge s.dropEdge with latLeft := n }) rfl hph hp
      (fun k hk => by simpa using hr (k + 1) (Nat.succ_le_succ hk)) hv
    exact ⟨o, by simpa [← transact_cmdReg ht] using hw.cons ho⟩

/-- Settles O51: after the wait and one more edge the state is the one the transaction gives, but for the wait, the
record of the host and the schedule. -/
theorem latencyThenTransaction : Obligations.LatencyThenTransaction := by
  intro s t hph hp hr ht
  obtain ⟨o, ho⟩ := runs_latency rfl hph hp hr ht
  exact ⟨_, ho.run, rfl⟩

/-! ### What a step keeps -/

/-- Settles O45: the edges that execute a word keep ECHO_MODE because the word does, all others write no such field. -/
theorem echoModeIsFixed : Obligations.EchoModeIsFixed := by
  intro s t h
  rcases clockEdge_cases h with ⟨-, rfl⟩ | ⟨-, -, -, rfl⟩ | ⟨-, -, -, rfl⟩ | ⟨-, -, -, -, rfl⟩ | ⟨-, -, -, -, rfl⟩ |
    ⟨-, -, -, -, ht⟩ | ⟨n, -, -, -, -, rfl⟩ | ⟨-, -, -, rfl⟩
  exacts [rfl, rfl, rfl, rfl, rfl, (transact_echoMode ht).trans rfl, rfl, rfl]

/-- A host that owes nothing and presents nothing goes on owing nothing (60_exceptions R205). -/
theorem step_duty_clear {s t : State} (h : step s = .next t) (hd : s.offer.duty = .clear)
    (hv : s.nextEdge.pins.cmdValid = false) : t.offer.duty = .clear := by
  have hn : noteDuty s.nextEdge.pins s.offer.duty = .clear := by simp [noteDuty, hd, hv]
  rcases clockEdge_cases h with ⟨-, rfl⟩ | ⟨-, -, -, rfl⟩ | ⟨-, -, -, rfl⟩ | ⟨-, -, -, -, rfl⟩ | ⟨-, -, -, -, rfl⟩ |
    ⟨-, -, -, -, ht⟩ | ⟨n, -, -, -, -, rfl⟩ | ⟨-, -, -, rfl⟩
  exacts [hn, hn, hn, rfl, hn, by rw [transact_offer ht]; exact hn, hn, hn]

/-- The cycle that comes after a run. -/
theorem run_nextEdge {k : Nat} {s t : State} (h : runSteps k s = .next t) :
    t.nextEdge = (s.inputs.drop k).headD quietEdge := by
  rw [State.nextEdge, run_inputs h]

theorem run_duty_clear {k : Nat} {s t : State} (h : runSteps k s = .next t) (hd : s.offer.duty = .clear)
    (hv : ∀ j < k, ((s.inputs.drop j).headD quietEdge).pins.cmdValid = false) : t.offer.duty = .clear := by
  induction k generalizing t with
  | zero => cases h; exact hd
  | succ k ih =>
    obtain ⟨v, hk, hs⟩ := run_last h
    refine step_duty_clear hs (ih hk fun j hj => hv j (hj.trans k.lt_succ_self)) ?_
    rw [run_nextEdge hk]
    exact hv k k.lt_succ_self

/-! ### Any host: the run simulates a sequence of transactions -/

/-- After edges from `s` in which the words `ws` and the responses `rs` transferred, the block is in `t`, and this is
what a sequence of transactions from `s` explains: all of `ws`, all but the word in flight, or all of `ws` with a
response that is not taken yet (00_scope R6). -/
inductive Refines (s : State) : List CmdWord → List (Bool × Data) → State → Prop where
  | boundary {cs : List HostCmd} {u t : State} {rs : List (Bool × Data)} (hc : runCommands cs s = some (u, rs))
      (ha : t.arch = u.arch) (hm : t.echoMode = u.echoMode) (hb : t.AtBoundary) : Refines s (cs.map (·.word)) rs t
  | inFlight {cs : List HostCmd} {u t : State} {rs : List (Bool × Data)} {w : CmdWord}
      (hc : runCommands cs s = some (u, rs)) (ha : t.arch = u.arch) (hm : t.echoMode = u.echoMode)
      (hw : t.cmdReg = w) (hph : t.phase = .receiving) (hp : t.rspPend = false) :
      Refines s (cs.map (·.word) ++ [w]) rs t
  | held {cs : List HostCmd} {u t : State} {rs : List (Bool × Data)}
      (hc : runCommands cs s = some (u, rs ++ [(t.rspErr, t.rspData)]))
      (ha : t.arch = u.arch) (hm : t.echoMode = u.echoMode) (hph : t.phase = .echoing) (hp : t.rspPend = true) :
      Refines s (cs.map (·.word)) rs t

/-- One more edge without reset keeps the simulation. -/
theorem Refines.edge {s t : State} {ws : List CmdWord} {rs : List (Bool × Data)} (h : Refines s ws rs t)
    (hr : t.nextEdge.pins.rst = false) :
    ∃ v ws' rs', Runs 1 t v ws' rs' ∧ Refines s (ws ++ ws') (rs ++ rs') v := by
  cases h with
  | boundary hc ha hm hb =>
    cases hv : t.nextEdge.pins.cmdValid with
    | true =>
      refine ⟨_, _, _, runs_accept hr hb hv, ?_⟩
      rw [List.append_nil]
      exact .inFlight hc ha hm rfl rfl hb.2
    | false =>
      refine ⟨_, _, _, runs_idle hr hb hv, ?_⟩
      rw [List.append_nil, List.append_nil]
      exact .boundary hc ha hm hb
  | @inFlight cs u _ _ _ hc ha hm hw hph hp =>
    subst hw
    cases hl : t.latLeft with
    | zero =>
      obtain ⟨v, hv⟩ := transact_answers t.cmdReg (noteOffer t.nextEdge t.dropEdge)
      obtain ⟨u', hu, hua, hue, hud⟩ := transact_arch hv (s' := u) ha.symm hm.symm
      have hcs := runCommands_snoc (c := ⟨t.cmdReg, t.nextEdge.free⟩) hc hu
      have hme : v.echoMode = u'.echoMode := by rw [transact_echoMode hv, transact_echoMode hu]; exact hm
      rw [hue, hud] at hcs
      refine ⟨v, _, _, runs_execute hr hph hp hl hv, ?_⟩
      simpa using Refines.held hcs hua.symm hme (transact_phase hv) (transact_rspPend hv)
    | succ n =>
      refine ⟨_, _, _, runs_wait hr hph hp hl, ?_⟩
      rw [List.append_nil, List.append_nil]
      exact .inFlight hc ha hm rfl hph hp
  | held hc ha hm hph hp =>
    cases hy : t.nextEdge.pins.rspReady with
    | true =>
      refine ⟨_, _, _, runs_take hr hp hy, ?_⟩
      rw [List.append_nil]
      exact .boundary hc ha hm ⟨rfl, rfl⟩
    | false =>
      refine ⟨_, _, _, runs_hold hr hp hy, ?_⟩
      rw [List.append_nil, List.append_nil]
      exact .held hc ha hm hph hp

/-- The simulation holds along every run from a boundary without reset. -/
theorem runs_refine {k : Nat} {s : State} (hb : s.AtBoundary)
    (hr : ∀ j < k, ((s.inputs.drop j).headD quietEdge).pins.rst = false) :
    ∃ t ws rs, Runs k s t ws rs ∧ Refines s ws rs t := by
  induction k with
  | zero => exact ⟨s, [], [], .zero s, .boundary (runCommands_nil s) rfl rfl hb⟩
  | succ k ih =>
    obtain ⟨t, ws, rs, hk, href⟩ := ih fun j hj => hr j (hj.trans k.lt_succ_self)
    obtain ⟨v, ws', rs', h1, hv⟩ := href.edge (by rw [run_nextEdge hk.run]; exact hr k k.lt_succ_self)
    exact ⟨v, _, _, hk.trans h1, hv⟩

/-! ### A host that keeps its duties: the whole sequence goes through -/

theorem nextEdge_of_inputs {s : State} {e : Edge} {es : List Edge} (h : s.inputs = e :: es) : s.nextEdge = e := by
  rw [State.nextEdge, h, List.headD_cons]

/-- The next cycles of a schedule that begins with one cycle repeated. -/
theorem headD_drop_replicate {k n : Nat} (h : k < n) (e q : Edge) (es : List Edge) :
    ((List.replicate n e ++ es).drop k).headD q = e := by
  rw [List.headD_eq_head?_getD, List.head?_drop, List.getElem?_append_left (by simpa using h)]
  simp [h]

/-- Cycles in which the host drives nothing pass by a block that waits for a command or holds a response. -/
theorem runs_idleEdges {j : Nat} {f : Free} {s : State} {es : List Edge}
    (hi : s.inputs = List.replicate j (idleEdge f) ++ es) (hd : s.offer.duty = .clear)
    (hw : s.AtBoundary ∨ s.rspPend = true) : Runs j s { s with inputs := es } [] [] := by
  induction j generalizing s with
  | zero => obtain rfl := hi.symm; exact .zero s
  | succ j ih =>
    have he : s.nextEdge = idleEdge f := nextEdge_of_inputs hi
    have hq : noteOffer s.nextEdge s.dropEdge = s.dropEdge := noteOffer_quiet _ _ (by rw [he]; rfl) hd
    have h1 : Runs 1 s (noteOffer s.nextEdge s.dropEdge) [] [] :=
      hw.elim (fun hb => runs_idle (by rw [he]; rfl) hb (by rw [he]; rfl))
        (fun hp => runs_hold (by rw [he]; rfl) hp (by rw [he]; rfl))
    rw [hq] at h1
    exact h1.cons (ih (by rw [State.dropEdge_inputs, hi]; rfl) hd hw)

/-- The cycle in which such a host presents a command. -/
def offerEdge (c : HostCmd) : Edge := ⟨⟨false, true, c.word, false⟩, c.free⟩

/-- The cycle in which such a host takes a response. -/
def takeEdge (f : Free) : Edge := ⟨⟨false, false, 0#40, true⟩, f⟩

/-- The cycles of a turn after the acceptance: the wait and the edge after it, the response held, and taken. -/
def answerEdges (f : Free) (hold : Nat) : List Edge :=
  List.replicate (f.lat + 1) (idleEdge f) ++ (List.replicate hold (idleEdge f) ++ [takeEdge f])

theorem commandEdges_eq (h : HostTurn) :
    commandEdges h
      = List.replicate h.idle (idleEdge h.cmd.free) ++ offerEdge h.cmd :: answerEdges h.cmd.free h.hold := rfl

/-- From the acceptance of a word to the taking of its response. -/
theorem runs_answerEdges {f : Free} {hold : Nat} {s t : State} {es : List Edge} (hph : s.phase = .receiving)
    (hp : s.rspPend = false) (hl : s.latLeft = f.lat) (hd : s.offer.duty = .clear)
    (hi : s.inputs = answerEdges f hold ++ es) (ht : transact s.cmdReg s = .next t) :
    ∃ o, o.duty = .clear ∧ Runs (answerEdges f hold).length s
      { takeResponse f t with latLeft := 0, offer := o, inputs := es } [] [(t.rspErr, t.rspData)] := by
  simp only [answerEdges, List.append_assoc, List.singleton_append] at hi
  have hnext {k : Nat} (hk : k < f.lat + 1) : (s.inputs.drop k).headD quietEdge = idleEdge f := by
    rw [hi, headD_drop_replicate hk]
  obtain ⟨o, hwait⟩ := runs_latency hl hph hp (fun k hk => by rw [hnext (Nat.lt_succ_of_le hk)]; rfl) ht
  have hod : o.duty = .clear := run_duty_clear hwait.run hd fun k hk => by rw [hnext hk]; rfl
  rw [hi, List.drop_left' List.length_replicate] at hwait
  have hpend : t.rspPend = true := transact_rspPend ht
  have hhold := runs_idleEdges
    (s := { t with latLeft := 0, offer := o, inputs := List.replicate hold (idleEdge f) ++ takeEdge f :: es })
    rfl hod (.inr hpend)
  have htake := runs_take (s := { t with latLeft := 0, offer := o, inputs := takeEdge f :: es }) rfl hpend rfl
  rw [noteOffer_quiet _ _ rfl hod] at htake
  have hlen : (answerEdges f hold).length = f.lat + 1 + (hold + 1) := by simp [answerEdges]
  exact ⟨o, hod, hlen ▸ hwait.trans (hhold.trans htake)⟩

/-- From the presenting of a word, which transfers at once, to the taking of its response. -/
theorem runs_offerEdge {c : HostCmd} {hold : Nat} {s t : State} {es : List Edge} (hb : s.AtBoundary)
    (hd : s.offer.duty = .clear) (hi : s.inputs = offerEdge c :: (answerEdges c.free hold ++ es))
    (ht : transact c.word s = .next t) :
    ∃ o, o.duty = .clear ∧ Runs ((answerEdges c.free hold).length + 1) s
      { takeResponse c.free t with cmdReg := c.word, latLeft := 0, offer := o, inputs := es }
      [c.word] [(t.rspErr, t.rspData)] := by
  have he : s.nextEdge = offerEdge c := nextEdge_of_inputs hi
  have hw : sampledWord (offerEdge c) s.dropEdge = c.word :=
    sampledWord_held (by rw [State.dropEdge_offer, hd]; exact Duty.noConfusion)
  have haccept := runs_accept (by rw [he]; rfl) hb (by rw [he]; rfl)
  rw [he] at haccept
  have hx := transact_accept ht (offerEdge c)
  obtain ⟨o, hod, hanswer⟩ := runs_answerEdges (f := c.free) (s := accept (offerEdge c) s.dropEdge) rfl hb.2 rfl rfl
    (by rw [accept_inputs, State.dropEdge_inputs, hi, List.tail_cons]) (by rw [accept_cmdReg, hw]; exact hx)
  rw [← hw]
  exact ⟨o, hod, haccept.cons hanswer⟩

/-- One turn of such a host: the word transfers, its response is taken, and the block is where the transaction leaves
it but for the word sampled, its spent wait, the record of the host and the schedule. -/
theorem runs_commandEdges {h : HostTurn} {s t : State} {es : List Edge} (hb : s.AtBoundary)
    (hd : s.offer.duty = .clear) (hi : s.inputs = commandEdges h ++ es) (ht : transact h.cmd.word s = .next t) :
    ∃ o, o.duty = .clear ∧ Runs (commandEdges h).length s
      { takeResponse h.cmd.free t with cmdReg := h.cmd.word, latLeft := 0, offer := o, inputs := es }
      [h.cmd.word] [(t.rspErr, t.rspData)] := by
  rw [commandEdges_eq, List.append_assoc] at hi
  have hidle := runs_idleEdges hi hd (.inl hb)
  have hx := transact_port_fields ht s.cmdReg s.phase s.rspPend s.latLeft s.offer
    (offerEdge h.cmd :: (answerEdges h.cmd.free h.hold ++ es))
  obtain ⟨o, hod, hoffer⟩ := runs_offerEdge (s := { s with inputs := offerEdge h.cmd :: (_ ++ es) }) hb hd rfl hx
  have hlen : (commandEdges h).length = h.idle + ((answerEdges h.cmd.free h.hold).length + 1) := by
    simp [commandEdges_eq]
  exact ⟨o, hod, hlen ▸ hidle.trans hoffer⟩

/-- The whole sequence of turns. -/
theorem runs_script {hs : List HostTurn} {s : State} {rest : List Edge} (hb : s.AtBoundary)
    (hd : s.offer.duty = .clear) (hi : s.inputs = scriptOf hs ++ rest) :
    ∃ u rs c n o, runCommands (hs.map (·.cmd)) s = some (u, rs) ∧ o.duty = .clear
      ∧ Runs (scriptOf hs).length s { u with cmdReg := c, latLeft := n, offer := o, inputs := rest }
        (hs.map (·.cmd.word)) rs := by
  induction hs generalizing s with
  | nil =>
    obtain rfl : s.inputs = rest := hi
    exact ⟨s, [], _, _, _, rfl, hd, .zero s⟩
  | cons h hs ih =>
    obtain ⟨t, ht⟩ := transact_answers h.cmd.word s
    rw [scriptOf, List.flatMap_cons, List.append_assoc] at hi
    obtain ⟨o, hod, hturn⟩ := runs_commandEdges hb hd hi ht
    obtain ⟨u, rs, c, n, o', hu, hod', hrest⟩ := ih
      (s := { takeResponse h.cmd.free t with cmdReg := h.cmd.word, latLeft := 0, offer := o, inputs := _ })
      ⟨rfl, rfl⟩ hod rfl
    have hc := runCommands_port_fields hu t.cmdReg t.latLeft t.offer t.inputs
    refine ⟨_, _, c, n, o', runCommands_cons ht hc, hod', ?_⟩
    simpa [scriptOf] using hturn.trans hrest

/-- Settles O58: any run simulates a sequence of transactions, and a host that keeps its duties gets through its whole
sequence. -/
theorem portRefinesTransactions : Obligations.PortRefinesTransactions := by
  refine ⟨fun k s t hb hr hrun => ?_, fun hs s rest hb hd hi => ?_⟩
  · obtain ⟨t', ws, rs, hk, href⟩ := runs_refine hb hr
    obtain rfl : t' = t := Host.Outcome.next.inj (hk.run.symm.trans hrun)
    rw [hk.words, hk.responses]
    cases href with
    | boundary hc ha _ hb' => exact ⟨_, _, _, hc, ha, .inl ⟨hb', rfl, rfl⟩⟩
    | inFlight hc ha _ hw hph hp => exact ⟨_, _, _, hc, ha, .inr (.inl ⟨⟨hph, hp⟩, by rw [hw], rfl⟩)⟩
    | held hc ha _ hph hp => exact ⟨_, _, _, hc, ha, .inr (.inr ⟨⟨hph, hp⟩, rfl, rfl⟩)⟩
  · obtain ⟨u, rs, c, n, o, hu, hod, h⟩ := runs_script hb hd hi
    exact ⟨u, rs, _, hu, h.run, h.words, h.responses, rfl, hod⟩

end Sys2Proof.Machine

/-!
SUPPORT. The state elements of 10_state and what is kept of them: the reset values, the invariants of R38 along every
step, and what COUNT and LAST_VALID say of the commands since the last construction.
-/
namespace Sys2Proof.Machine

/-! ### The invariant -/

/-- The clamp answers a rate of the interval of BAUD (42_config R160). -/
theorem clampRate_bounds (r : Rate) : minBaud ≤ clampRate r ∧ clampRate r ≤ maxBaud := by
  have hlt : minBaud ≤ maxBaud := by decide
  rcases clampRate_cases r with ⟨-, h⟩ | ⟨-, h⟩ | ⟨hlo, hhi, h⟩ <;> rw [h]
  · exact ⟨BitVec.le_refl _, hlt⟩
  · exact ⟨hlt, BitVec.le_refl _⟩
  · exact ⟨hlo, hhi⟩

/-- A response puts RSP_PEND and PHASE together, so the invariant asks for the registers of before alone. -/
theorem respond_inv {s : State} (err : Bool) (d : Data) (hb : minBaud ≤ s.baud ∧ s.baud ≤ maxBaud)
    (hl : s.lastValid = false → s.lastByte = 0x00#8 ∧ s.count = 0#64) : (respond err d s).Inv :=
  ⟨hb.1, hb.2, hl, by simp⟩

/-- What a word does keeps the invariant, whatever the word is. -/
theorem transact_inv {w : CmdWord} {s t : State} (hi : s.Inv) (h : transact w s = .next t) : t.Inv := by
  obtain ⟨hlo, hhi, hl, -⟩ := hi
  rcases transact_cases h with ⟨i, -, hx⟩ | ⟨c, -, rfl⟩
  · cases i with
    | proc b => cases hx; exact respond_inv _ _ ⟨hlo, hhi⟩ (by simp)
    | rdcnt | rdbaud | rdlast | clamp r => cases hx; exact respond_inv _ _ ⟨hlo, hhi⟩ hl
    | setbaud r => cases hx; exact respond_inv _ _ (clampRate_bounds r) hl
    | init => cases hx; exact respond_inv _ _ (clampRate_bounds defaultBaud) fun _ => ⟨rfl, rfl⟩
    | initb r => cases hx; exact respond_inv _ _ (clampRate_bounds r) fun _ => ⟨rfl, rfl⟩
  · exact respond_inv _ _ ⟨hlo, hhi⟩ hl

theorem reset_inv : State.reset.Inv := ⟨by decide, by decide, fun _ => ⟨rfl, rfl⟩, by decide⟩

/-- Settles O42: an edge that executes a word keeps the invariant because the word does; the others leave the registers
alone or reset them, and move RSP_PEND and PHASE together. -/
theorem stepKeepsInvariant : Obligations.StepKeepsInvariant := by
  intro s t hi h
  have ⟨hlo, hhi, hl, _⟩ := hi
  rcases clockEdge_cases h with ⟨-, rfl⟩ | ⟨-, -, -, rfl⟩ | ⟨-, -, -, rfl⟩ | ⟨-, hp, -, -, rfl⟩ | ⟨-, -, -, -, rfl⟩ |
    ⟨-, -, -, -, ht⟩ | ⟨n, -, -, -, -, rfl⟩ | ⟨-, -, -, rfl⟩
  · exact reset_inv
  · exact ⟨hlo, hhi, hl, by simp⟩
  · exact hi
  · exact ⟨hlo, hhi, hl, by simpa using hp⟩
  · exact hi
  · exact transact_inv (s := noteOffer s.nextEdge s.dropEdge) hi ht
  · exact hi
  · exact hi

/-- Settles O41: the reset values meet the invariant, with PHASE = IDLE and no response held. -/
theorem invariantAtReset : Obligations.InvariantAtReset := ⟨reset_inv, rfl, rfl⟩

/-- Settles O40: each of the six is the value that `State.reset` gives the register. -/
theorem resetValues : Obligations.ResetValues := ⟨rfl, rfl, rfl, rfl, rfl, rfl⟩

/-! ### What a sequence of words leaves in the registers -/

/-- A sequence of words is answered, and a relation `P` between the state and a value worked out from the words holds
after it when it holds before and every word with its response taken keeps it. -/
theorem runCommands_keeps {α : Type} {P : α → State → Prop} {f : α → HostCmd → α}
    (hstep : ∀ {a c s t}, P a s → transact c.word s = .next t → P (f a c) (takeResponse c.free t))
    (cs : List HostCmd) {a : α} {s : State} (h : P a s) :
    ∃ u rs, runCommands cs s = some (u, rs) ∧ P (cs.foldl f a) u := by
  induction cs generalizing a s with
  | nil => exact ⟨s, [], rfl, h⟩
  | cons c cs ih =>
    obtain ⟨t, ht⟩ := transact_answers c.word s
    obtain ⟨u, rs, hu, hP⟩ := ih (hstep h ht)
    exact ⟨u, _, runCommands_cons ht hu, hP⟩

theorem procsSince_eq_foldl (cs : List HostCmd) (n : Nat) :
    procsSince cs n = cs.foldl (fun n c => procsSince [c] n) n := by
  induction cs generalizing n with
  | nil => rfl
  | cons c cs ih => exact ih _

theorem procSeen_eq_foldl (cs : List HostCmd) (b : Bool) :
    procSeen cs b = cs.foldl (fun b c => procSeen [c] b) b := by
  induction cs generalizing b with
  | nil => rfl
  | cons c cs ih => exact ih _

/-- COUNT is the number `n`, as long as it can be: a number that COUNT cannot hold leaves COUNT open, so that the
relation outlives an overflow before a construction (10_state R24). -/
def CountsTo (n : Nat) (s : State) : Prop := n < 2 ^ 64 → s.count.toNat = n

theorem transact_countsTo {n : Nat} {c : HostCmd} {s t : State} (hn : CountsTo n s)
    (h : transact c.word s = .next t) : CountsTo (procsSince [c] n) t := by
  rcases transact_cases h with ⟨i, hd, hx⟩ | ⟨e, hd, rfl⟩
  · cases i with
    | proc b =>
      cases hx
      simp only [procsSince, hd]
      intro hlt
      have hc : s.count.toNat = n := hn (by omega)
      exact (incCount_below _ _ (by omega)).trans (by rw [hc])
    | init | initb r => cases hx; simp [procsSince, hd, CountsTo]
    | rdcnt | rdbaud | setbaud r | rdlast | clamp r => cases hx; simp only [procsSince, hd]; exact hn
  · simp only [procsSince, hd]; exact hn

/-- Settles O36: the number of PROC commands is followed past the bound of COUNT, and COUNT is that number again from
the next construction on. -/
theorem counterCountsProcs : Obligations.CounterCountsProcs := by
  intro cs n s hn hlt
  obtain ⟨u, rs, hu, hc⟩ := runCommands_keeps (P := CountsTo) transact_countsTo cs (fun _ => hn)
  rw [← procsSince_eq_foldl] at hc
  exact ⟨u, rs, hu, hc hlt⟩

theorem transact_lastValid {c : HostCmd} {s t : State} (h : transact c.word s = .next t) :
    t.lastValid = procSeen [c] s.lastValid := by
  rcases transact_cases h with ⟨i, hd, hx⟩ | ⟨e, hd, rfl⟩
  · cases i with
    | proc b => cases hx; simp [procSeen, hd]
    | init | initb r => cases hx; simp [procSeen, hd]
    | rdcnt | rdbaud | setbaud r | rdlast | clamp r => cases hx; simp [procSeen, hd]
  · simp [procSeen, hd]

/-- Settles O37: each word leaves in LAST_VALID what `procSeen` says of it. -/
theorem lastValidTellsProc : Obligations.LastValidTellsProc := by
  intro cs s
  obtain ⟨u, rs, hu, hv⟩ := runCommands_keeps (P := fun b s => s.lastValid = b) (f := fun b c => procSeen [c] b)
    (by rintro _ c s t rfl h; rw [takeResponse_lastValid, transact_lastValid h]) cs rfl
  exact ⟨u, rs, hu, hv.trans (procSeen_eq_foldl cs _).symm⟩

/-! ### Single commands -/

/-- Settles O18: PROC writes COUNT, records the byte and responds, three updates that keep every other register. -/
theorem procFrame : Obligations.ProcFrame := fun _ _ => ⟨_, rfl, rfl⟩

/-- Settles O33: RDBAUD alone reads BAUD; the commands that answer a rate take it from their operand or the default. -/
theorem baudChangesOnlyRdbaud : Obligations.BaudChangesOnlyRdbaud := by
  intro i s r hi
  cases i with
  | rdbaud => exact absurd rfl hi
  | proc b | rdcnt | rdlast | setbaud q | clamp q | init | initb q => exact ⟨_, _, rfl, rfl, rfl, rfl, rfl, rfl, rfl⟩

end Sys2Proof.Machine

/-!
SUPPORT. How commands follow one another (20_memory R55, R57): which of them change nothing more when they run again,
and how a sequence of words splits into its parts.
-/
namespace Sys2Proof.Machine

/-! ### A command run twice -/

/-- Below the bound the counter moves, whatever CNT_OVF is. -/
theorem incCount_ne_of_below (o : CntOvf) (c : Data) (h : c.toNat < 2 ^ 64 - 1) : incCount o c ≠ c := by
  intro heq
  have hinc := incCount_below o c h
  rw [heq] at hinc
  omega

/-- A command other than PROC writes its operand, a constant, or a register that it leaves alone, so running it again
writes the same values. -/
theorem exec_idempotent {i : Instr} (hi : ∀ b, i ≠ .proc b) (s : State) :
    ∃ t, exec i s = .next t ∧ exec i t = .next t := by
  cases i with
  | proc b => exact absurd rfl (hi b)
  | rdcnt | rdbaud | rdlast | setbaud r | clamp r | init | initb r => exact ⟨_, rfl, rfl⟩

/-- Settles O34: PROC counts each time, and two counts below the bound both move COUNT; the other commands write the
same values again. -/
theorem commandsIdempotentButProc : Obligations.CommandsIdempotentButProc := by
  refine ⟨fun i s hi => exec_idempotent hi s, fun b s hlt => ?_⟩
  have hfirst := incCount_below Config.cntOvf s.count (by omega)
  exact ⟨_, _, rfl, rfl, incCount_ne_of_below _ s.count (by omega),
    incCount_ne_of_below _ (incCount Config.cntOvf s.count) (by omega)⟩

/-! ### Sequences of words -/

/-- Every sequence of words is answered, with one response for each word. -/
theorem runCommands_answers (cs : List HostCmd) (s : State) :
    ∃ u rs, runCommands cs s = some (u, rs) ∧ rs.length = cs.length := by
  induction cs generalizing s with
  | nil => exact ⟨s, [], rfl, rfl⟩
  | cons c cs ih =>
    obtain ⟨t, ht⟩ := transact_answers c.word s
    obtain ⟨u, rs, hu, hlen⟩ := ih (takeResponse c.free t)
    exact ⟨u, _, runCommands_cons ht hu, by simp [hlen]⟩

/-- Two sequences run as one when the second starts where the first ends. -/
theorem runCommands_append {cs ds : List HostCmd} {s u v : State} {rs rs' : List (Bool × Data)}
    (hcs : runCommands cs s = some (u, rs)) (hds : runCommands ds u = some (v, rs')) :
    runCommands (cs ++ ds) s = some (v, rs ++ rs') := by
  induction cs generalizing s rs with
  | nil => cases hcs; exact hds
  | cons c cs ih =>
    obtain ⟨t, _, ht, hrest, rfl⟩ := runCommands_cons_inv hcs
    exact runCommands_cons ht (ih hrest)

/-- Settles O38: both parts are answered, and they run as one sequence. -/
theorem commandsCompose : Obligations.CommandsCompose := by
  intro cs ds s
  obtain ⟨u, rs, hcs, hlen⟩ := runCommands_answers cs s
  obtain ⟨v, rs', hds, -⟩ := runCommands_answers ds u
  exact ⟨u, rs, v, rs', hcs, hds, runCommands_append hcs hds, hlen⟩

end Sys2Proof.Machine

/-!
SUPPORT. The decoder and the encoder as inverses of each other (30_encoding R74 to R83, R93), the opcode table as the
words of the encoder, and the words that encode no command with their responses.
-/
namespace Sys2Proof
open Sys2Proof.Machine

/-! ### The two formats that reserve bits -/

theorem decodeF0_zero (i : Instr) : decodeF0 i 0#32 = .ok i := rfl

theorem decodeFB_zero_append (mk : Byte → Instr) (b : Byte) : decodeFB mk (0#24 ++ b) = .ok (mk b) := by
  rw [decodeFB, reservedOf_append, byteOf_append, if_pos rfl]

theorem decodeF0_ok {i j : Instr} {arg : Rate} (h : decodeF0 i arg = .ok j) : j = i ∧ arg = 0#32 := by
  unfold decodeF0 at h
  split at h
  · cases h; exact ⟨rfl, ‹_›⟩
  · cases h

/-- An argument whose reserved bits are 0 is its byte, zero-extended (30_encoding R76). -/
theorem eq_zero_append_byteOf {arg : Rate} (h : reservedOf arg = 0#24) : arg = 0#24 ++ byteOf arg := by
  rw [← h, append_byteOf]

theorem decodeFB_ok {mk : Byte → Instr} {j : Instr} {arg : Rate} (h : decodeFB mk arg = .ok j) :
    ∃ b, j = mk b ∧ arg = 0#24 ++ b := by
  unfold decodeFB at h
  split at h
  · cases h; exact ⟨_, rfl, eq_zero_append_byteOf ‹_›⟩
  · cases h

theorem decodeF0_error {arg : Rate} (i : Instr) (h : arg ≠ 0#32) : decodeF0 i arg = .error .reservedBits := if_neg h

theorem decodeFB_error {arg : Rate} (mk : Byte → Instr) (h : reservedOf arg ≠ 0#24) :
    decodeFB mk arg = .error .reservedBits := if_neg h

/-! ### Decoding and encoding -/

theorem decode_encode (i : Instr) : decode (encode i) = .ok i := by
  cases i with
  | proc b => simpa [decode, encode] using decodeFB_zero_append .proc b
  | rdcnt | rdbaud | rdlast | init => simp [decode, encode, decodeF0_zero]
  | setbaud r | initb r | clamp r => simp [decode, encode]

/-- A word with its opcode known. -/
theorem eq_mkWord_argOf {w : CmdWord} {op : BitVec 8} (h : (opOf w).toNat = op.toNat) : w = mkWord op (argOf w) := by
  rw [← BitVec.eq_of_toNat_eq h, mkWord_opOf_argOf]

theorem encode_of_decodeF0 {w : CmdWord} {op : BitVec 8} {i j : Instr} (hop : (opOf w).toNat = op.toNat)
    (hi : encode i = mkWord op 0#32) (h : decodeF0 i (argOf w) = .ok j) : encode j = w := by
  obtain ⟨rfl, harg⟩ := decodeF0_ok h
  rw [hi, ← harg, ← eq_mkWord_argOf hop]

theorem encode_of_decodeFB {w : CmdWord} {op : BitVec 8} {mk : Byte → Instr} {j : Instr}
    (hop : (opOf w).toNat = op.toNat) (hmk : ∀ b, encode (mk b) = mkWord op (0#24 ++ b))
    (h : decodeFB mk (argOf w) = .ok j) : encode j = w := by
  obtain ⟨b, rfl, harg⟩ := decodeFB_ok h
  rw [hmk, ← harg, ← eq_mkWord_argOf hop]

/-- The opcode gives the upper bits of the encoding; the argument is the operand, or what the format asks of it. -/
theorem encode_of_decode {w : CmdWord} {i : Instr} (h : decode w = .ok i) : encode i = w := by
  unfold decode at h
  split at h
  case h_1 hop => exact encode_of_decodeFB (op := 0x01#8) hop (fun _ => rfl) h
  case h_2 hop => exact encode_of_decodeF0 (op := 0x02#8) hop rfl h
  case h_3 hop => exact encode_of_decodeF0 (op := 0x03#8) hop rfl h
  case h_4 hop => cases h; exact (eq_mkWord_argOf (op := 0x04#8) hop).symm
  case h_5 hop => exact encode_of_decodeF0 (op := 0x05#8) hop rfl h
  case h_6 hop => exact encode_of_decodeF0 (op := 0x06#8) hop rfl h
  case h_7 hop => cases h; exact (eq_mkWord_argOf (op := 0x07#8) hop).symm
  case h_8 hop => cases h; exact (eq_mkWord_argOf (op := 0x08#8) hop).symm
  case h_9 => cases h

/-- The decoder and the encoder are each other's inverses. -/
theorem decode_ok_iff {w : CmdWord} {i : Instr} : decode w = .ok i ↔ encode i = w :=
  ⟨encode_of_decode, fun h => h ▸ decode_encode i⟩

/-- Settles O1: the fields of the encoder's word are the opcode and the operand that the decoder looks for. -/
theorem decodeOfEncode : Obligations.DecodeOfEncode := decode_encode

/-- Settles O2: opcode and argument make up the whole word, and an argument that a format reserves is 0. -/
theorem encodeOfDecode : Obligations.EncodeOfDecode := fun _ _ => encode_of_decode

/-- Settles O4: each word is the encoder's word of its command. -/
theorem spelledOutWordsDecode : Obligations.SpelledOutWordsDecode :=
  ⟨decode_encode (.proc 0x41#8), decode_encode .rdcnt, decode_encode .rdbaud, decode_encode (.setbaud 10000000#32),
    decode_encode .rdlast, decode_encode .init, decode_encode (.initb 100#32), decode_encode (.clamp 100#32)⟩

/-! ### The opcode table -/

/-- The mask of format FB keeps the reserved bits (30_encoding R76). -/
theorem and_maskFB (arg : Rate) : arg &&& 0xFFFFFF00#32 = reservedOf arg ++ 0#8 := by
  have happ : (reservedOf arg ++ byteOf arg) &&& (BitVec.allOnes 24 ++ 0#8)
      = (reservedOf arg &&& BitVec.allOnes 24) ++ (byteOf arg &&& 0#8) := BitVec.and_append
  rwa [append_byteOf, BitVec.and_allOnes, BitVec.and_zero] at happ

theorem reservedOf_eq_zero {arg : Rate} (h : arg &&& 0xFFFFFF00#32 = 0#32) : reservedOf arg = 0#24 := by
  rw [← reservedOf_append (reservedOf arg) 0#8, ← and_maskFB, h]
  rfl

theorem encodedWord_statement (i : Instr) : Laws.EncodedWord.Statement i := by
  cases i with
  | proc b => exact Laws.EncodedWord.proc b
  | rdcnt => exact Laws.EncodedWord.rdcnt
  | rdbaud => exact Laws.EncodedWord.rdbaud
  | setbaud r => exact Laws.EncodedWord.setbaud r
  | rdlast => exact Laws.EncodedWord.rdlast
  | init => exact Laws.EncodedWord.init
  | initb r => exact Laws.EncodedWord.initb r
  | clamp r => exact Laws.EncodedWord.clamp r

theorem wordWellFormed_encode (i : Instr) : wordWellFormed (encode i) = true := by
  have hne : (opcodeRows.filter fun r => r.covers (encode i)) ≠ [] := by
    intro hnil
    have hrows := encodedWord_statement i
    simp [Laws.EncodedWord.Statement, hnil] at hrows
  obtain ⟨r, hr⟩ := List.exists_mem_of_ne_nil _ hne
  exact List.any_eq_true.mpr ⟨r, List.mem_filter.mp hr⟩

/-- Each row covers words of its own command alone: by the opcode, and by what the mask asks of the argument. -/
theorem exists_encode_of_wellFormed {w : CmdWord} (h : wordWellFormed w = true) : ∃ i, encode i = w := by
  obtain ⟨op, arg, rfl⟩ : ∃ op arg, w = mkWord op arg := ⟨_, _, (mkWord_opOf_argOf w).symm⟩
  simp only [wordWellFormed, Laws.EncodedWord.opcodeRows_split, List.any_cons, List.any_nil, Bool.or_false,
    Bool.or_eq_true, Laws.EncodedWord.covers_mkWord, Bool.and_eq_true, beq_iff_eq] at h
  have hall : arg &&& 0xFFFFFFFF#32 = arg := BitVec.and_allOnes
  rw [hall] at h
  rcases h with ⟨rfl, harg⟩ | ⟨rfl, rfl⟩ | ⟨rfl, rfl⟩ | ⟨rfl, -⟩ | ⟨rfl, rfl⟩ | ⟨rfl, rfl⟩ | ⟨rfl, -⟩ | ⟨rfl, -⟩
  · exact ⟨.proc (byteOf arg), by rw [encode, ← eq_zero_append_byteOf (reservedOf_eq_zero harg)]⟩
  · exact ⟨.rdcnt, rfl⟩
  · exact ⟨.rdbaud, rfl⟩
  · exact ⟨.setbaud arg, rfl⟩
  · exact ⟨.rdlast, rfl⟩
  · exact ⟨.init, rfl⟩
  · exact ⟨.initb arg, rfl⟩
  · exact ⟨.clamp arg, rfl⟩

/-- The opcode table covers the words of the encoder, and no others. -/
theorem wordWellFormed_iff (w : CmdWord) : wordWellFormed w = true ↔ ∃ i, encode i = w :=
  ⟨exists_encode_of_wellFormed, fun ⟨i, h⟩ => h ▸ wordWellFormed_encode i⟩

/-- Settles O3: on both sides stand the words of the encoder. -/
theorem decoderMatchesOpcodeTable : Obligations.DecoderMatchesOpcodeTable := fun w =>
  (exists_congr fun _ => decode_ok_iff).trans (wordWellFormed_iff w).symm

/-! ### Words that encode no command -/

/-- The opcodes 0x00 and 0x09 to 0xFF are those that no case of the decoder names (30_encoding R81). -/
theorem decode_unassigned {w : CmdWord} (h : (opOf w).toNat = 0 ∨ 9 ≤ (opOf w).toNat) :
    decode w = .error .unassignedOpcode := by
  unfold decode
  split
  case h_9 => rfl
  all_goals omega

/-- The ILLEGAL response shows the cause and the whole word (60_exceptions R192). -/
theorem transact_error_presents {w : CmdWord} {c : Cause} (h : decode w = .error c) (s : State) :
    ∃ t, transact w s = .next t ∧ t.Presents true (c.code ++ 0x0000#16 ++ w) :=
  ⟨_, transact_error h s, rfl, rfl, rfl, rfl⟩

/-- Settles O5: the opcode is the word's value divided by 2^32. -/
theorem unassignedOpcodeIsIllegal : Obligations.UnassignedOpcodeIsIllegal := by
  intro w s hop
  rw [← opOf_toNat] at hop
  have hd := decode_unassigned hop
  exact ⟨hd, transact_error_presents hd s⟩

/-- A reserved bit that is not 0 under an opcode of format F0 or FB (30_encoding R82). -/
theorem decode_reservedBits {w : CmdWord}
    (h : ((opOf w).toNat = 2 ∨ (opOf w).toNat = 3 ∨ (opOf w).toNat = 5 ∨ (opOf w).toNat = 6) ∧ argOf w ≠ 0#32
      ∨ (opOf w).toNat = 1 ∧ reservedOf (argOf w) ≠ 0#24) :
    decode w = .error .reservedBits := by
  rcases h with ⟨hop, harg⟩ | ⟨hop, hres⟩
  · rcases hop with hop | hop | hop | hop <;> simp only [decode, hop, decodeF0_error _ harg]
  · simp only [decode, hop, decodeFB_error _ hres]

/-- Settles O6: the argument is the word's value modulo 2^32, and its reserved bits in format FB that value divided by
2^8. -/
theorem reservedBitsAreIllegal : Obligations.ReservedBitsAreIllegal := by
  intro w s h
  rw [← opOf_toNat, ← argOf_toNat] at h
  have hd : decode w = .error .reservedBits := by
    refine decode_reservedBits (h.imp (And.imp_right ?_) (And.imp_right ?_))
    · intro harg hzero
      exact harg (congrArg BitVec.toNat hzero)
    · intro hres hzero
      have hdiv : (argOf w).toNat / 2 ^ 8 = 0 := by rw [← reservedOf_toNat, hzero]; rfl
      omega
  exact ⟨hd, transact_error_presents hd s⟩

/-! ### The command in flight -/

/-- Settles O8: at the edge that executes the word in flight, the word's transaction is its command's. -/
theorem stepRunsDecodedInstruction : Obligations.StepRunsDecodedInstruction := by
  intro s i hd hph hp hl hr
  rw [step_executes s hr hp hph hl, transact_ok hd]

/-- All 40 bits of a word's number give the word back. -/
theorem tableWord_toNat (w : CmdWord) : tableWord 40 w.toNat = w := by
  rw [tableWord, Nat.mod_eq_of_lt w.isLt, BitVec.ofNat_toNat, BitVec.setWidth_eq]

/-- Settles O9: the word put in flight by its number is the encoder's word, and no wait is left. -/
theorem fetchedWordIsRun : Obligations.FetchedWordIsRun := by
  intro s i
  have hd : decode (s.withFetchWord 40 (encode i).toNat).cmdReg = .ok i :=
    (congrArg decode (tableWord_toNat _)).trans (decode_encode i)
  rw [stepRunsDecodedInstruction _ i hd rfl rfl rfl rfl, State.withFetchWord, tableWord_toNat]
  rfl

/-! ### The character mapper -/

/-- Settles O21: the table and the predicate are compared at each of the 256 bytes. -/
theorem lutMatchesPredicate : Obligations.LutMatchesPredicate := by
  unfold Obligations.LutMatchesPredicate
  decide

end Sys2Proof

/-!
SUPPORT. The two handshakes of the port, edge by edge (30_encoding R72, R73).
-/
namespace Sys2Proof.Machine

/-- A run of one edge is a step. -/
theorem Runs.step {s t : State} {ws : List CmdWord} {rs : List (Bool × Data)} (h : Runs 1 s t ws rs) :
    Machine.step s = .next t := by
  obtain ⟨v, hv, hstep⟩ := run_last h.run
  cases hv
  exact hstep

theorem cmdReadyPin_iff (e : Edge) (s : State) :
    cmdReadyPin e s = true ↔ s.phase = .idle ∧ s.rspPend = false ∧ e.pins.rst = false := by
  simp [cmdReadyPin, and_assoc]

/-- Settles O49: the pin is the conjunction of the three conditions, and none of them reads cmd_valid. -/
theorem commandReady : Obligations.CommandReady := fun e s => ⟨cmdReadyPin_iff e s, fun _ => rfl⟩

/-- Away from a boundary an edge without reset accepts no word, and nothing else writes the word in flight. -/
theorem step_cmdReg {s t : State} (hb : ¬ s.AtBoundary) (hr : s.nextEdge.pins.rst = false) (h : step s = .next t) :
    t.cmdReg = s.cmdReg := by
  rcases clockEdge_cases h with ⟨hrst, -⟩ | ⟨-, -, -, rfl⟩ | ⟨-, -, -, rfl⟩ | ⟨-, hp, hph, -, -⟩ | ⟨-, -, -, -, rfl⟩ |
    ⟨-, -, -, -, ht⟩ | ⟨n, -, -, -, -, rfl⟩ | ⟨-, -, -, rfl⟩
  · exact absurd hrst (by simp [hr])
  · rfl
  · rfl
  · exact absurd ⟨hph, hp⟩ hb
  · rfl
  · exact (transact_cmdReg ht).trans rfl
  · rfl
  · rfl

/-- Settles O50: cmd_ready asks for a boundary, and only an acceptance or a reset writes the register of the word. -/
theorem oneCommandInFlight : Obligations.OneCommandInFlight := by
  intro s t hb hr h
  refine ⟨Bool.eq_false_iff.mpr fun hready => ?_, step_cmdReg hb hr h⟩
  obtain ⟨hph, hp, -⟩ := (cmdReadyPin_iff _ _).mp hready
  exact hb ⟨hph, hp⟩

/-- Settles O47: the edge accepts, and a host that keeps its duty gets the word on the port sampled. -/
theorem commandAccepted : Obligations.CommandAccepted := by
  intro s hb hr hv hh
  rw [(runs_accept hr hb hv).step, accept, sampledWord_held (s := s.dropEdge) hh]
  rfl

/-- Settles O52: the edge only counts the wait down. -/
theorem waitingChangesNothing : Obligations.WaitingChangesNothing := fun _ _ hph hp hl hr =>
  ⟨_, (runs_wait hr hph hp hl).step, rfl⟩

theorem rspValidPin_of_held {e : Edge} {s : State} (hp : s.rspPend = true) (hr : e.pins.rst = false) :
    rspValidPin e s = true := by
  simp [rspValidPin, hp, hr]

/-- Settles O53: rsp_valid is RSP_PEND, the other two pins follow it, and the edge only notes the cycle. -/
theorem responseIsHeld : Obligations.ResponseIsHeld := by
  intro s hp hr hy
  have hvalid := rspValidPin_of_held hp hr
  exact ⟨hvalid, if_pos hvalid, if_pos hvalid, _, (runs_hold hr hp hy).step, rfl⟩

/-- Settles O54: the edge takes the response, which leaves a boundary. -/
theorem responseIsTaken : Obligations.ResponseIsTaken := fun _ hp hr hy =>
  ⟨transferred_some hp hr hy, _, (runs_take hr hp hy).step, rfl, rfl, rfl,
    fun _ he => (cmdReadyPin_iff _ _).mpr ⟨rfl, rfl, he⟩⟩

end Sys2Proof.Machine

/-!
SUPPORT. Quoted texts of an assembly line, item by item, and the lines with one (30_encoding R94, R95).
-/
namespace Sys2Proof.Machine

theorem digitVal_hexDigit : ∀ (u : Bool) (d : Fin 16), digitVal 16 (hexDigit u d) = some d.val := by decide

theorem number_hexDigit (u u' : Bool) (d d' : Fin 16) :
    number 16 [hexDigit u d, hexDigit u' d'] = some (16 * d.val + d'.val) := by
  simp [number, digitsVal, digitVal_hexDigit, Nat.mul_comm]

/-- An item before the rest of a text stands for its code. -/
theorem quoted_item {close : Char} {x : TextItem} {cs tail : List Char} {bs : List Byte} (hb : close ≠ chBackslash)
    (hx : x.MayStand close) (h : quoted close cs = some (bs, tail)) :
    quoted close (x.chars ++ cs) = some (x.code :: bs, tail) := by
  cases x with
  | plain c =>
    obtain ⟨hascii, hclose, hback⟩ := hx
    exact quoted_plain hclose hback hascii h
  | hex hi lo hu lu => exact quoted_hex hb (number_hexDigit hu lu hi lo) h
  | newline | carriageReturn | tab | backslash | apostrophe | nul => exact quoted_escape hb (by decide) (by decide) h

/-- A text up to its closing character stands for the codes of its items. -/
theorem quoted_text {close : Char} (hb : close ≠ chBackslash) (text : List TextItem)
    (htext : ∀ x ∈ text, x.MayStand close) :
    quoted close (text.flatMap TextItem.chars ++ [close]) = some (text.map TextItem.code, []) := by
  induction text with
  | nil => exact quoted_close close []
  | cons x xs ih =>
    obtain ⟨hx, hxs⟩ := List.forall_mem_cons.mp htext
    rw [List.flatMap_cons, List.append_assoc]
    exact quoted_item hb hx (ih hxs)

theorem procsOperand_quoted {cs : List Char} {bs : List Byte} (h : quoted chDouble cs = some (bs, [])) :
    procsOperand (chDouble :: cs) = some bs := by
  simp [procsOperand, h, lineDone, dropBlanks]

theorem procOperand_quoted {cs : List Char} {b : Byte} (h : quoted chQuote cs = some ([b], [])) :
    procOperand (chQuote :: cs) = some b := by
  simp [procOperand, h, lineDone, dropBlanks]

/-- A PROCS line is its operand's bytes, one PROC each. -/
theorem asmLine_procs (cs : List Char) :
    asmLine ('P' :: 'R' :: 'O' :: 'C' :: 'S' :: ' ' :: chDouble :: cs)
      = (procsOperand (chDouble :: cs)).map fun bs => bs.map fun b => encode (.proc b) := rfl

/-- A PROC line with a character literal is its operand's PROC. -/
theorem asmLine_proc (cs : List Char) :
    asmLine ('P' :: 'R' :: 'O' :: 'C' :: ' ' :: chQuote :: cs)
      = (procOperand (chQuote :: cs)).map fun b => [encode (.proc b)] := rfl

/-- Settles O59: the marks enclose a text whose items stand for their codes one by one; a character literal is a text
of one item. -/
theorem procsExpandsPerCharacter : Obligations.ProcsExpandsPerCharacter := by
  refine ⟨fun text htext => ?_, fun x hx => ?_⟩
  · have hq := quoted_text (by decide) text htext
    calc asmLine (['P', 'R', 'O', 'C', 'S', ' ', chDouble] ++ text.flatMap TextItem.chars ++ [chDouble])
      _ = (procsOperand (chDouble :: (text.flatMap TextItem.chars ++ [chDouble]))).map
            fun bs => bs.map fun b => encode (.proc b) := asmLine_procs _
      _ = some (text.map fun x => encode (.proc x.code)) := by
        rw [procsOperand_quoted hq, Option.map_some, List.map_map]; rfl
  · have hq := quoted_item (by decide) hx (quoted_close chQuote [])
    calc asmLine (['P', 'R', 'O', 'C', ' ', chQuote] ++ x.chars ++ [chQuote])
      _ = (procOperand (chQuote :: (x.chars ++ [chQuote]))).map fun b => [encode (.proc b)] := asmLine_proc _
      _ = some [encode (.proc x.code)] := by rw [procOperand_quoted hq, Option.map_some]

/-- Settles O60: neither line has an operand, so each is assembled by evaluation. -/
theorem pseudoInstructionsExpand : Obligations.PseudoInstructionsExpand := ⟨rfl, rfl⟩

end Sys2Proof.Machine

/-!
SUPPORT. The echo family (40_echo): the packing of an output sequence and its way back, what PROC answers and records,
the echo stream of a sequence of words, and the order of the phases.
-/
namespace Sys2Proof.Machine

/-! ### The packing of an output sequence -/

/-- The value of a packed sequence, field by field (30_encoding R86). -/
theorem packOutput_toNat (l : List Byte) :
    (packOutput l).toNat = l.length % 4 * 2 ^ 24 + (outByte l 2).toNat * 2 ^ 16 + (outByte l 1).toNat * 2 ^ 8
      + (outByte l 0).toNat := by
  simp only [packOutput, BitVec.toNat_setWidth, append_toNat, BitVec.toNat_ofNat]
  omega

theorem packOutput_lt (l : List Byte) : (packOutput l).toNat < 2 ^ 26 := by
  rw [packOutput_toNat]
  omega

theorem outLen_packOutput {l : List Byte} (h : l.length ≤ 3) : outLen (packOutput l) = l.length := by
  rw [outLen, BitVec.extractLsb'_toNat, packOutput_toNat, Nat.shiftRight_eq_div_pow]
  omega

/-- Each field `OUTi` of the packed sequence is the byte `OUTi` (30_encoding R86). -/
theorem extractLsb'_packOutput (l : List Byte) {i : Nat} (h : i < 3) :
    (packOutput l).extractLsb' (8 * i) 8 = outByte l i := by
  apply BitVec.eq_of_toNat_eq
  rw [BitVec.extractLsb'_toNat, packOutput_toNat, Nat.shiftRight_eq_div_pow]
  interval_cases i <;> omega

theorem outByte_of_length_le {l : List Byte} {i : Nat} (h : l.length ≤ i) : outByte l i = 0x00#8 :=
  List.getD_eq_default l _ h

/-- The host transmits the very bytes that were packed (30_encoding R86). -/
theorem unpackOutput_packOutput {l : List Byte} (h : l.length ≤ 3) : unpackOutput (packOutput l) = l := by
  have hbytes : unpackOutput (packOutput l) = [outByte l 0, outByte l 1, outByte l 2].take l.length := by
    rw [unpackOutput, outLen_packOutput h, extractLsb'_packOutput l (i := 0) (by decide),
      extractLsb'_packOutput l (i := 1) (by decide), extractLsb'_packOutput l (i := 2) (by decide)]
  rw [hbytes]
  match l, h with
  | [], _ | [_], _ | [_, _], _ | [_, _, _], _ => rfl

theorem packOutput_nil : packOutput [] = 0#64 := by decide

theorem packOutput_eraseRom : packOutput eraseRom = 0x0000000003082008#64 := by decide

theorem packOutput_singleton (b : Byte) : packOutput [b] = 0x0000000001000000#64 + b.setWidth 64 := by
  have hval : (packOutput [b]).toNat = 2 ^ 24 + b.toNat := by simp [packOutput_toNat, outByte]
  apply BitVec.eq_of_toNat_eq
  rw [hval, BitVec.toNat_add, BitVec.toNat_setWidth, BitVec.toNat_ofNat]
  omega

/-! ### The output sequence of a byte -/

/-- The bytes of class ERASE (30_encoding R89). -/
theorem lut_erase : ∀ b : Byte, b = 0x08#8 ∨ b = 0x7F#8 → lut b = .erase := by decide

/-- The bytes of class ECHO_ALNUM (30_encoding R89). -/
theorem lut_echoAlnum : ∀ b : Byte,
    (0x30#8 ≤ b ∧ b ≤ 0x39#8 ∨ 0x41#8 ≤ b ∧ b ≤ 0x5A#8 ∨ 0x61#8 ≤ b ∧ b ≤ 0x7A#8) → lut b = .echoAlnum := by
  decide

/-- The bytes of class ECHO_SYM (30_encoding R89). -/
theorem lut_echoSym : ∀ b : Byte,
    (b = 0x09#8 ∨ b = 0x0A#8 ∨ b = 0x0D#8 ∨ 0x20#8 ≤ b ∧ b ≤ 0x2F#8 ∨ 0x3A#8 ≤ b ∧ b ≤ 0x40#8
      ∨ 0x5B#8 ≤ b ∧ b ≤ 0x60#8 ∨ 0x7B#8 ≤ b ∧ b ≤ 0x7E#8) → lut b = .echoSym := by
  decide

/-- The bytes of class DROP (30_encoding R89). -/
theorem lut_drop : ∀ b : Byte,
    (b ≤ 0x07#8 ∨ 0x0B#8 ≤ b ∧ b ≤ 0x0C#8 ∨ 0x0E#8 ≤ b ∧ b ≤ 0x1F#8 ∨ 0x80#8 ≤ b) → lut b = .drop := by
  decide

/-- Only the erase sequence is longer than one byte (40_echo R120). -/
theorem classOutput_length (c : LutClass) (b : Byte) :
    (classOutput c b).length = 0 ∨ (classOutput c b).length = 1 ∨ (classOutput c b).length = 3 := by
  cases c with
  | drop => exact .inl rfl
  | echoAlnum | echoSym => exact .inr (.inl rfl)
  | erase => exact .inr (.inr rfl)

theorem procOutput_length_le (m : EchoMode) (b : Byte) : (procOutput m b).length ≤ 3 := by
  cases m with
  | classify =>
    have hlen := classOutput_length (lut b) b
    rw [procOutput]
    omega
  | passthrough => simp [procOutput]

/-! ### What PROC does -/

/-- PROC presents the packed output sequence of the byte, counts, and records the byte (40_echo R110, R117, R118). -/
theorem exec_proc (b : Byte) (s : State) :
    ∃ t, exec (.proc b) s = .next t ∧ t.Presents false (packOutput (procOutput s.echoMode b))
      ∧ t.count = incCount Config.cntOvf s.count ∧ t.lastByte = b ∧ t.lastValid = true :=
  ⟨_, rfl, ⟨rfl, rfl, rfl, rfl⟩, rfl, rfl, rfl⟩

/-- In CLASSIFY mode the class of the byte decides what PROC presents (40_echo R111). -/
theorem exec_proc_of_class {b : Byte} {s : State} {c : LutClass} {d : Data} (hm : s.echoMode = .classify)
    (hc : lut b = c) (hd : packOutput (classOutput c b) = d) :
    ∃ t, exec (.proc b) s = .next t ∧ t.Presents false d := by
  obtain ⟨t, ht, hp, -⟩ := exec_proc b s
  rw [hm, procOutput, hc, hd] at hp
  exact ⟨t, ht, hp⟩

/-- Settles O11: both bytes are of class ERASE. -/
theorem procErase : Obligations.ProcErase := fun b _ hm hb =>
  exec_proc_of_class hm (lut_erase b hb) packOutput_eraseRom

/-- Settles O12: the three ranges are class ECHO_ALNUM. -/
theorem procEchoesAlnum : Obligations.ProcEchoesAlnum := fun b _ hm hb =>
  exec_proc_of_class hm (lut_echoAlnum b hb) (packOutput_singleton b)

/-- Settles O13: these bytes and ranges are class ECHO_SYM. -/
theorem procEchoesSymbols : Obligations.ProcEchoesSymbols := fun b _ hm hb =>
  exec_proc_of_class hm (lut_echoSym b hb) (packOutput_singleton b)

/-- Settles O14: the four ranges are class DROP. -/
theorem procDrops : Obligations.ProcDrops := fun b _ hm hb =>
  exec_proc_of_class hm (lut_drop b hb) packOutput_nil

/-- Settles O16: below the bound the counter moves by 1; at the bound all its bits are 1, and CNT_OVF decides. -/
theorem procCounts : Obligations.ProcCounts := by
  intro b s
  obtain ⟨t, ht, -, hc, -, -⟩ := exec_proc b s
  refine ⟨t, ht, fun hlt => ?_, fun hmax => ?_⟩
  · rw [hc, incCount_below _ _ hlt]
  · have hones : s.count = BitVec.allOnes 64 := BitVec.eq_of_toNat_eq hmax
    rw [hc, hones, incCount_bound]
    cases Config.cntOvf <;> rfl

/-- Settles O17: recording the byte looks neither at its class nor at the mode. -/
theorem procRecordsLastByte : Obligations.ProcRecordsLastByte := by
  intro b s
  obtain ⟨t, ht, -, -, hlast⟩ := exec_proc b s
  exact ⟨t, ht, hlast⟩

/-- Settles O15: the output sequence is the byte alone; the counter is that of `procCounts`, whatever the mode. -/
theorem procPassesThrough : Obligations.ProcPassesThrough := by
  intro b s hm
  obtain ⟨t, ht, hp, -, hbyte, hvalid⟩ := exec_proc b s
  obtain ⟨t', ht', hcount⟩ := procCounts b s
  obtain rfl : t' = t := Host.Outcome.next.inj (ht'.symm.trans ht)
  rw [hm, procOutput, packOutput_singleton] at hp
  exact ⟨t', ht, hp, hbyte, hvalid, hcount⟩

/-- Settles O19: LEN is the length of the output sequence, and past its length the packing gives 0. -/
theorem procOutputLength : Obligations.ProcOutputLength := by
  intro b s
  obtain ⟨t, ht, ⟨-, -, -, hdata⟩, -⟩ := exec_proc b s
  have hlen : outLen t.rspData = (procOutput s.echoMode b).length := by
    rw [hdata, outLen_packOutput (procOutput_length_le _ b)]
  have hzero {i : Nat} (hi : i < 3) (hle : outLen t.rspData ≤ i) : t.rspData.extractLsb' (8 * i) 8 = 0#8 := by
    rw [hdata, extractLsb'_packOutput _ hi, outByte_of_length_le (hlen ▸ hle)]
  refine ⟨t, ht, fun hm => ?_, fun hm => ?_, hzero (i := 2) (by decide), hzero (i := 1) (by decide),
    fun h0 => hzero (i := 0) (by decide) h0.le, hdata ▸ packOutput_lt _⟩
  · rw [hlen, hm]
    exact classOutput_length (lut b) b
  · rw [hlen, hm]
    rfl

/-- Settles O20: the output sequence reads the state's ECHO_MODE and nothing else of it. -/
theorem procKeepsNoHistory : Obligations.ProcKeepsNoHistory := by
  intro b s s' hm
  obtain ⟨t, ht, ⟨-, -, herr, hdata⟩, -⟩ := exec_proc b s
  obtain ⟨t', ht', ⟨-, -, herr', hdata'⟩, -⟩ := exec_proc b s'
  exact ⟨t, t', ht, ht', by rw [herr, herr'], by rw [hdata, hdata', hm]⟩

/-! ### The echo stream -/

/-- The output sequence of a word in a build: that of its PROC, nothing for any other word (40_echo R121). -/
def wordOutput (m : EchoMode) (w : CmdWord) : List Byte :=
  match decode w with
  | .ok (.proc b) => procOutput m b
  | _ => []

/-- The host transmits for a word and its response the word's output sequence (40_echo R121). -/
theorem echoOf_transact {w : CmdWord} {s t : State} (h : transact w s = .next t) :
    echoOf w t.rspData = wordOutput s.echoMode w := by
  rcases transact_cases h with ⟨i, hd, hx⟩ | ⟨c, hd, -⟩
  · cases i with
    | proc b =>
      cases hx
      simp only [echoOf, wordOutput, hd, respond_rspData]
      exact unpackOutput_packOutput (procOutput_length_le _ b)
    | rdcnt | rdbaud | setbaud r | rdlast | init | initb r | clamp r => simp only [echoOf, wordOutput, hd]
  · simp only [echoOf, wordOutput, hd]

/-- Word by word; neither a word nor the taking of its response changes the build. -/
theorem echoStream_of_runCommands {cs : List HostCmd} {s u : State} {rs : List (Bool × Data)}
    (h : runCommands cs s = some (u, rs)) :
    echoStream cs rs = cs.flatMap fun c => wordOutput s.echoMode c.word := by
  induction cs generalizing s rs with
  | nil => rfl
  | cons c cs ih =>
    obtain ⟨t, rs', ht, hrest, rfl⟩ := runCommands_cons_inv h
    rw [echoStream, List.flatMap_cons, echoOf_transact ht, ih hrest, takeResponse_echoMode, transact_echoMode ht]

/-- Settles O39: every sequence is answered, and its echo stream is the output sequences of its words in order. -/
theorem echoStreamConcatenates : Obligations.EchoStreamConcatenates := by
  intro cs s
  obtain ⟨u, rs, hu, -⟩ := runCommands_answers cs s
  exact ⟨u, rs, hu, echoStream_of_runCommands hu⟩

/-! ### The order of the phases -/

/-- Settles O56: an edge without reset moves the phase only when it accepts a word, executes it, or has the response
taken, which the invariant lets be held in ECHOING alone. -/
theorem phasesInOrder : Obligations.PhasesInOrder := by
  intro s t ⟨_, _, _, hpend⟩ hr h
  rcases clockEdge_cases h with ⟨hrst, -⟩ | ⟨-, hp, -, rfl⟩ | ⟨-, -, -, rfl⟩ | ⟨-, -, hph, -, rfl⟩ | ⟨-, -, -, -, rfl⟩ |
    ⟨-, -, hph, -, ht⟩ | ⟨n, -, -, -, -, rfl⟩ | ⟨-, -, -, rfl⟩
  · exact absurd hrst (by simp [hr])
  · exact .inr (.inr (.inr ⟨hpend.mp hp, rfl⟩))
  · exact .inl rfl
  · exact .inr (.inl ⟨hph, rfl⟩)
  · exact .inl rfl
  · exact .inr (.inr (.inl ⟨hph, transact_phase ht⟩))
  · exact .inl rfl
  · exact .inl rfl

end Sys2Proof.Machine

/-!
SUPPORT. The query family (41_query): each query presents the value of registers and leaves the state otherwise as it
was.
-/
namespace Sys2Proof.Machine

/-- Presenting a response changes no architectural register (10_state R20). -/
@[simp] theorem respond_arch (err : Bool) (d : Data) (s : State) : (respond err d s).arch = s.arch := rfl

/-- The flag is worth 256, the byte lies below it (41_query R142). -/
theorem packLast_toNat (valid : Bool) (b : Byte) :
    (packLast valid b).toNat = (if valid then 256 else 0) + b.toNat := by
  have hflag : (BitVec.ofBool valid).toNat * 2 ^ 8 = if valid then 256 else 0 := by cases valid <;> rfl
  rw [packLast, BitVec.toNat_setWidth, append_toNat, hflag, Nat.mod_eq_of_lt]
  split <;> omega

/-- A query presents its registers' value and leaves the rest of the state alone (41_query R143). -/
theorem exec_query {i : Instr} (hi : i ∈ [Instr.rdcnt, .rdbaud, .rdlast]) (s : State) :
    ∃ d, exec i s = .next (respond errOk d s) := by
  simp only [List.mem_cons, List.not_mem_nil, or_false] at hi
  rcases hi with rfl | rfl | rfl
  · exact ⟨s.count, rfl⟩
  · exact ⟨zextRate s.baud, rfl⟩
  · exact ⟨packLast s.lastValid s.lastByte, rfl⟩

/-- Settles O22: the response carries COUNT itself, at its full width. -/
theorem rdcntReadsCounter : Obligations.RdcntReadsCounter := fun _ => rfl

/-- Settles O23: the response carries BAUD, widened with zeros. -/
theorem rdbaudReadsBaud : Obligations.RdbaudReadsBaud := fun _ => rfl

/-- Settles O24: the response carries LAST_VALID and LAST_BYTE, packed. -/
theorem rdlastReadsLastByte : Obligations.RdlastReadsLastByte := fun s =>
  ⟨_, rfl, packLast_toNat s.lastValid s.lastByte, rfl⟩

/-- Settles O25: a query only presents a response. -/
theorem queriesChangeNothing : Obligations.QueriesChangeNothing := by
  intro i s hi
  obtain ⟨d, hd⟩ := exec_query hi s
  exact ⟨_, hd, respond_arch errOk d s⟩

end Sys2Proof.Machine

/-!
SUPPORT. Configuration and construction (42_config): the value of the clamp with its laws, the four commands that use
it, and the only ways for COUNT to become 0.
-/
namespace Sys2Proof.Machine

/-! ### The clamp -/

/-- The value of the clamp (42_config R160). -/
theorem clampRate_toNat (r : Rate) : (clampRate r).toNat = max 9600 (min r.toNat 921600) := by
  have hmin : minBaud.toNat = 9600 := rfl
  have hmax : maxBaud.toNat = 921600 := rfl
  rcases clampRate_cases r with ⟨hlow, h⟩ | ⟨hhigh, h⟩ | ⟨hlow, hhigh, h⟩ <;> rw [h]
  · rw [BitVec.lt_def] at hlow; omega
  · rw [BitVec.lt_def] at hhigh; omega
  · rw [BitVec.le_def] at hlow hhigh; omega

/-- The clamp leaves a rate of the interval of BAUD alone (42_config R161). -/
theorem clampRate_of_bounds {r : Rate} (hlow : 9600 ≤ r.toNat) (hhigh : r.toNat ≤ 921600) : clampRate r = r :=
  BitVec.eq_of_toNat_eq (by rw [clampRate_toNat, min_eq_left hhigh, max_eq_right hlow])

/-- The clamp keeps the order of rates (42_config R161). -/
theorem clampRate_mono {r r' : Rate} (h : r ≤ r') : clampRate r ≤ clampRate r' := by
  rw [BitVec.le_def, clampRate_toNat, clampRate_toNat]
  exact max_le_max_left _ (min_le_min_right _ h)

/-- Settles O26: the three ways the clamp goes are the three values of the maximum. -/
theorem clampIsMaxOfMin : Obligations.ClampIsMaxOfMin := clampRate_toNat

/-- Settles O27: below, above and between the bounds by the clamp's value; it is idempotent because what it answers lies
between them. -/
theorem clampLaws : Obligations.ClampLaws := by
  have hbounds (r : Rate) : 9600 ≤ (clampRate r).toNat ∧ (clampRate r).toNat ≤ 921600 := clampRate_bounds r
  refine ⟨fun r => clampRate_of_bounds (hbounds r).1 (hbounds r).2, fun r h => ?_, fun r h => ?_,
    fun r => clampRate_of_bounds, hbounds, fun r r' => clampRate_mono⟩
  · rw [clampRate_toNat]; omega
  · rw [clampRate_toNat]; omega

/-! ### The commands -/

theorem zextRate_toNat (r : Rate) : (zextRate r).toNat = r.toNat := BitVec.toNat_setWidth_of_le (by decide)

/-- Settles O28: SETBAUD writes BAUD and responds, two updates that keep every other register. -/
theorem setbaudStoresClampedRate : Obligations.SetbaudStoresClampedRate := fun r _ =>
  ⟨_, rfl, clampRate_toNat r, rfl⟩

/-- Settles O29: CLAMP only responds, with the clamped rate widened with zeros. -/
theorem clampAnswersClampedRate : Obligations.ClampAnswersClampedRate := fun r _ =>
  ⟨_, rfl, (zextRate_toNat (clampRate r)).trans (clampRate_toNat r), rfl⟩

/-- The default rate lies between the bounds (00_scope R8). -/
theorem clampRate_defaultBaud : clampRate defaultBaud = defaultBaud := clampRate_of_bounds (by decide) (by decide)

/-- Construction with the default rate leaves the architectural state of reset (10_state R37, 42_config R164). -/
theorem construct_defaultBaud_arch (s : State) : (construct defaultBaud s).arch = State.reset.arch := by
  simp [State.arch, clampRate_defaultBaud, State.reset]

/-- Settles O30: the default rate passes the clamp, so construction and response both carry it. -/
theorem initConstructsDefault : Obligations.InitConstructsDefault := fun s =>
  ⟨_, rfl, (respond_arch _ _ _).trans (construct_defaultBaud_arch s), rfl⟩

/-- Settles O31: construction writes the clamped rate and clears the rest of the architectural state. -/
theorem initbConstructsWithRate : Obligations.InitbConstructsWithRate := fun r _ =>
  ⟨_, rfl, clampRate_toNat r, rfl⟩

/-! ### How the counter becomes 0 -/

/-- An increment answers 0 only at the bound and only when the counter wraps (40_echo R117). -/
theorem incCount_eq_zero {o : CntOvf} {c : Data} (h : incCount o c = 0#64) : c = BitVec.allOnes 64 ∧ o = .wrap := by
  have hbound : ¬ c.toNat < 2 ^ 64 - 1 := fun hlt => by simpa [h] using incCount_below o c hlt
  obtain rfl : c = BitVec.allOnes 64 := BitVec.eq_of_toNat_eq (by rw [BitVec.toNat_allOnes]; omega)
  cases o with
  | wrap => exact ⟨rfl, rfl⟩
  | saturate => exact absurd h (by decide)

/-- A command takes the counter to 0 by construction or by a PROC that wraps (42_config R166). -/
theorem exec_clears_count {i : Instr} {s t : State} (h : exec i s = .next t) (hs : s.count ≠ 0#64)
    (ht : t.count = 0#64) :
    i = .init ∨ (∃ r, i = .initb r)
      ∨ (∃ b, i = .proc b) ∧ s.count = BitVec.allOnes 64 ∧ Config.cntOvf = .wrap := by
  cases i with
  | init => exact .inl rfl
  | initb r => exact .inr (.inl ⟨r, rfl⟩)
  | proc b => cases h; exact .inr (.inr ⟨⟨b, rfl⟩, incCount_eq_zero ht⟩)
  | rdcnt | rdbaud | rdlast | setbaud r | clamp r => cases h; exact absurd ht hs

/-- A word takes the counter to 0 only by encoding a command that does: the ILLEGAL response keeps it. -/
theorem transact_clears_count {w : CmdWord} {s t : State} (h : transact w s = .next t) (hs : s.count ≠ 0#64)
    (ht : t.count = 0#64) :
    decode w = .ok .init ∨ (∃ r, decode w = .ok (.initb r))
      ∨ (∃ b, decode w = .ok (.proc b)) ∧ s.count = BitVec.allOnes 64 ∧ Config.cntOvf = .wrap := by
  rcases transact_cases h with ⟨i, hd, hx⟩ | ⟨c, -, rfl⟩
  · simpa only [hd, Except.ok.injEq] using exec_clears_count hx hs ht
  · exact absurd ht hs

/-- Settles O35: an edge without reset writes COUNT only where it executes a word, and the word must clear it. -/
theorem onlyConstructionClearsCounter : Obligations.OnlyConstructionClearsCounter := by
  intro s t h hs ht
  rcases clockEdge_cases h with ⟨hrst, -⟩ | ⟨-, -, -, rfl⟩ | ⟨-, -, -, rfl⟩ | ⟨-, -, -, -, rfl⟩ | ⟨-, -, -, -, rfl⟩ |
    ⟨-, -, hph, hl, hx⟩ | ⟨n, -, -, -, -, rfl⟩ | ⟨-, -, -, rfl⟩
  · exact .inl hrst
  · exact absurd ht hs
  · exact absurd ht hs
  · exact absurd ht hs
  · exact absurd ht hs
  · exact .inr ⟨hph, hl, transact_clears_count (s := noteOffer s.nextEdge s.dropEdge) hx hs ht⟩
  · exact absurd ht hs
  · exact absurd ht hs

end Sys2Proof.Machine

/-!
SUPPORT. Exceptional and abnormal situations (60_exceptions): every command, word and edge is answered, what a word that
encodes no command leaves alone, a response that is never taken, and a host that breaks the handshake.
-/
namespace Sys2Proof.Machine

/-! ### Every command and every edge is answered -/

/-- Every command ends by presenting a response with rsp_err = 0 (60_exceptions R190, 30_encoding R84). -/
theorem exec_responds (i : Instr) (s : State) : ∃ d u, exec i s = .next (respond errOk d u) := by
  cases i with
  | proc b | rdcnt | rdbaud | setbaud r | rdlast | init | initb r | clamp r => exact ⟨_, _, rfl⟩

/-- Settles O32: what every command presents is a response, and its status is `errOk`. -/
theorem commandsNeverFail : Obligations.CommandsNeverFail := by
  intro i s
  obtain ⟨d, u, h⟩ := exec_responds i s
  exact ⟨_, h, rfl, rfl, rfl⟩

/-- A reset edge, whatever the block is doing (60_exceptions R194). -/
theorem step_reset {s : State} (hr : s.nextEdge.pins.rst = true) :
    step s = .next (resetBlock s.nextEdge.free (noteOffer s.nextEdge s.dropEdge)) := if_pos hr

/-- ECHOING with no response held is unreachable; an edge without reset only notes the cycle (log entry 14). -/
theorem step_echoing_not_held {s : State} (hr : s.nextEdge.pins.rst = false) (hp : s.rspPend = false)
    (hph : s.phase = .echoing) : step s = .next (noteOffer s.nextEdge s.dropEdge) := by
  simp [step, clockEdge, hr, hp, hph]

/-- Settles O10: whichever kind of edge comes next, it answers; the one that executes a word does because every word is
answered. -/
theorem everyStepAnswers : Obligations.EveryStepAnswers := by
  intro s
  cases hr : s.nextEdge.pins.rst with
  | true => exact ⟨_, step_reset hr⟩
  | false =>
    cases hp : s.rspPend with
    | true =>
      cases hy : s.nextEdge.pins.rspReady with
      | true => exact ⟨_, (runs_take hr hp hy).step⟩
      | false => exact ⟨_, (runs_hold hr hp hy).step⟩
    | false =>
      cases hph : s.phase with
      | idle =>
        cases hv : s.nextEdge.pins.cmdValid with
        | true => exact ⟨_, (runs_accept hr ⟨hph, hp⟩ hv).step⟩
        | false => exact ⟨_, (runs_idle hr ⟨hph, hp⟩ hv).step⟩
      | receiving =>
        cases hl : s.latLeft with
        | zero =>
          rw [step_executes s hr hp hph hl]
          exact transact_answers _ _
        | succ n => exact ⟨_, (runs_wait hr hph hp hl).step⟩
      | echoing => exact ⟨_, step_echoing_not_held hr hp hph⟩

/-! ### A word that encodes no command -/

/-- A word that no row of the opcode table covers is an error of the decoder (30_encoding R83). -/
theorem decode_error_of_not_wellFormed {w : CmdWord} (h : wordWellFormed w = false) : ∃ c, decode w = .error c := by
  cases hd : decode w with
  | ok i =>
    have hw : wordWellFormed w = true := (wordWellFormed_iff w).mpr ⟨i, encode_of_decode hd⟩
    exact absurd hw (Bool.eq_false_iff.mp h)
  | error c => exact ⟨c, rfl⟩

/-- Settles O7: the word gives the ILLEGAL response, and presenting a response changes no architectural register. -/
theorem illegalChangesNoState : Obligations.IllegalChangesNoState := by
  intro w s hw
  obtain ⟨c, hc⟩ := decode_error_of_not_wellFormed hw
  exact ⟨_, transact_error hc s, respond_arch _ _ s, rfl⟩

/-! ### A response that is never taken -/

/-- What holds of every cycle of the schedule and of the quiet cycle past its end holds of the next cycle. -/
theorem nextEdge_of_forall {P : Edge → Prop} {s : State} (hq : P quietEdge) (h : ∀ e ∈ s.inputs, P e) :
    P s.nextEdge := by
  rw [State.nextEdge]
  cases hs : s.inputs with
  | nil => exact hq
  | cons e es => exact h e (hs ▸ List.mem_cons_self)

/-- Along edges without reset at which the host does not take the response held, only the record of the host and the
schedule move (60_exceptions R206). -/
theorem run_held {s : State} (k : Nat) (hp : s.rspPend = true)
    (hi : ∀ e ∈ s.inputs, e.pins.rst = false ∧ e.pins.rspReady = false) :
    ∃ o es, runSteps k s = .next { s with offer := o, inputs := es } := by
  induction k generalizing s with
  | zero => exact ⟨s.offer, s.inputs, rfl⟩
  | succ k ih =>
    obtain ⟨hr, hy⟩ := nextEdge_of_forall (P := fun e => e.pins.rst = false ∧ e.pins.rspReady = false) ⟨rfl, rfl⟩ hi
    rw [run_of_step (runs_hold hr hp hy).step]
    exact ih (s := noteOffer s.nextEdge s.dropEdge) hp fun e he => hi e (List.mem_of_mem_tail he)

/-- Settles O55: the run keeps RSP_PEND, RSP_ERR, RSP_DATA and the phase, and cmd_ready asks for another phase. -/
theorem untakenResponseHangs : Obligations.UntakenResponseHangs := by
  intro k s hp hph hi
  obtain ⟨o, es, hrun⟩ := run_held k hp hi
  refine ⟨_, hrun, hph, if_pos hp, rfl, fun e => Bool.eq_false_iff.mpr fun hready => ?_⟩
  obtain ⟨-, hnone, -⟩ := (cmdReadyPin_iff _ _).mp hready
  exact absurd hp (Bool.eq_false_iff.mp hnone)

/-! ### A host that breaks the handshake -/

/-- When the duty is broken the free choice picks among the words presented (60_exceptions R206). -/
theorem sampledWord_broken {e : Edge} {s : State} (h : noteDuty e.pins s.offer.duty = .broken) :
    sampledWord e s = (noteWord e.pins s.offer.words).getD e.free.pick e.pins.cmdWord := by
  rw [sampledWord, h]

/-- Every word presented stands at some place of the record, which the free choice may name (60_exceptions R206). -/
theorem exists_pick_sampledWord {p : Pins} {s : State} {w : CmdWord} (hv : p.cmdValid = true)
    (hd : noteDuty p s.offer.duty = .broken) (hw : w ∈ p.cmdWord :: s.offer.words) (f : Free) :
    ∃ n, sampledWord ⟨p, { f with pick := n }⟩ s = w := by
  have hmem : w ∈ noteWord p s.offer.words :=
    (mem_noteWord _ _ _).mpr ((List.mem_cons.mp hw).symm.imp_right fun h => ⟨hv, h.symm⟩)
  obtain ⟨n, hn⟩ := List.getElem?_of_mem hmem
  refine ⟨n, ?_⟩
  rw [sampledWord_broken hd, List.getD_eq_getElem?_getD, hn, Option.getD_some]

theorem accepted_none_of_reset {e : Edge} {s : State} (h : e.pins.rst = true) : accepted e s = none := by
  simp [accepted, cmdReadyPin, h]

/-- The record of the host after any edge: the word of the cycle is noted, and the duty follows the pins until the word
transfers (60_exceptions R205, R206; log entry 9). -/
theorem step_offer {s t : State} (h : step s = .next t) :
    t.offer = ⟨noteWord s.nextEdge.pins s.offer.words,
      if accepted s.nextEdge s = none then noteDuty s.nextEdge.pins s.offer.duty else .clear⟩ := by
  rcases clockEdge_cases h with ⟨hr, rfl⟩ | ⟨-, hp, -, rfl⟩ | ⟨-, hp, -, rfl⟩ | ⟨hr, hp, hph, hv, rfl⟩ |
    ⟨-, -, -, hv, rfl⟩ | ⟨-, -, hph, -, ht⟩ | ⟨n, -, -, hph, -, rfl⟩ | ⟨-, -, hph, rfl⟩
  · rw [accepted_none_of_reset hr]; rfl
  · rw [accepted_none (s := s) (.inr (.inl hp))]; rfl
  · rw [accepted_none (s := s) (.inr (.inl hp))]; rfl
  · rw [accepted_some (s := s) ⟨hph, hp⟩ hr hv]; rfl
  · rw [accepted_none (.inr (.inr hv))]; rfl
  · rw [accepted_none (s := s) (.inl (ne_of_eq_of_ne hph (by decide))), transact_offer ht]; rfl
  · rw [accepted_none (s := s) (.inl (ne_of_eq_of_ne hph (by decide)))]; rfl
  · rw [accepted_none (s := s) (.inl (ne_of_eq_of_ne hph (by decide)))]; rfl

/-- Settles O48: the edge accepts the word sampled, and after every edge the record of the host is that of
`step_offer`. -/
theorem sampledWordWasPresented : Obligations.SampledWordWasPresented := by
  refine ⟨fun s hb hr hv => ?_, fun s p f es w hb hr hv hd hw => ?_, fun s t h w => ?_, fun s t h ha => ?_,
    fun s t h ha => ?_⟩
  · exact ⟨_, (runs_accept hr hb hv).step, rfl, sampledWord_mem _ s.dropEdge, sampledWord_held (s := s.dropEdge)⟩
  · obtain ⟨n, hn⟩ := exists_pick_sampledWord hv hd hw f
    exact ⟨n, _, (runs_accept (s := { s with inputs := ⟨p, { f with pick := n }⟩ :: es }) hr hb hv).step, hn⟩
  · rw [step_offer h]
    exact mem_noteWord _ _ w
  · rw [step_offer h, if_neg ha]
  · rw [step_offer h, if_pos ha]
    exact ⟨noteDuty_holding _ _, noteDuty_broken _ _⟩

end Sys2Proof.Machine

/-!
SUPPORT. Reset and hazards (70_reset_and_hazards): a reset edge and the cycle after it, an edge at which nothing
happens, and what cfg_baud shows while a command is in flight.
-/
namespace Sys2Proof.Machine

/-! ### Reset and idle edges -/

/-- No response transfers while rst = 1 (70_reset_and_hazards R220). -/
theorem transferred_none_of_reset {e : Edge} {s : State} (h : e.pins.rst = true) : transferred e s = none := by
  simp [transferred, rspValidPin, h]

/-- Settles O43: both pins ask for rst = 0, and the edge leaves the values of `resetBlock`. -/
theorem resetEdge : Obligations.ResetEdge := by
  intro s hr
  have hready : cmdReadyPin s.nextEdge s = false := by simp [cmdReadyPin, hr]
  have hvalid : rspValidPin s.nextEdge s = false := by simp [rspValidPin, hr]
  exact ⟨hready, hvalid, transferred_none_of_reset hr, _, step_reset hr, rfl, rfl, rfl, rfl, rfl, rfl⟩

/-- Settles O44: the reset edge leaves a boundary, where cmd_ready is 1 and a word presented is accepted. -/
theorem readyAfterReset : Obligations.ReadyAfterReset := by
  obtain ⟨hsamples, -⟩ := sampledWordWasPresented
  exact fun s hr => ⟨_, step_reset hr, fun hlow =>
    ⟨(cmdReadyPin_iff _ _).mpr ⟨rfl, rfl, hlow⟩, hsamples _ ⟨rfl, rfl⟩ hlow⟩⟩

/-- A cycle in which no word is presented adds none to the record of the host (60_exceptions R206). -/
theorem noteWord_of_not_valid {p : Pins} (h : p.cmdValid = false) (ws : List CmdWord) : noteWord p ws = ws := by
  simp [noteWord, h]

/-- Settles O46: an idle edge only notes the cycle, which has no word to add. -/
theorem stateIsKept : Obligations.StateIsKept := by
  intro s hr hb hv
  rw [(runs_idle hr hb hv).step, noteOffer, State.dropEdge_offer, noteWord_of_not_valid hv]
  rfl

/-! ### cfg_baud -/

theorem cfgBaudPin_of_not_receiving {e : Edge} {s : State} (h : s.phase ≠ .receiving) : cfgBaudPin e s = s.baud := by
  simp [cfgBaudPin, h]

theorem cfgBaudPin_of_receiving {e : Edge} {s : State} (h : s.phase = .receiving) :
    cfgBaudPin e s = if e.free.cfgNew then baudAfter s else s.baud := by
  simp [cfgBaudPin, h]

/-- The new BAUD is the one that the transaction of the word in flight leaves (70_reset_and_hazards R229). -/
theorem baudAfter_eq {s t : State} (h : transact s.cmdReg s = .next t) : baudAfter s = t.baud := by
  rw [baudAfter, State.fetchWord, h]

/-- Settles O57: the transactions of SETBAUD, INITB and INIT write BAUD, every other one leaves it. -/
theorem cfgBaudWindow : Obligations.CfgBaudWindow := by
  intro e s
  refine ⟨cfgBaudPin_of_not_receiving, fun hph => ?_⟩
  rw [cfgBaudPin_of_receiving hph]
  refine if_congr Iff.rfl ?_ rfl
  cases hd : decode s.cmdReg with
  | error c => exact (baudAfter_eq (transact_error hd s) :)
  | ok i =>
    have hbaud (t : State) (hx : exec i s = .next t) : baudAfter s = t.baud :=
      baudAfter_eq ((transact_ok hd s).trans hx)
    cases i with
    | init => exact (hbaud _ rfl).trans clampRate_defaultBaud
    | setbaud r | initb r | clamp r | proc b | rdcnt | rdbaud | rdlast => exact (hbaud _ rfl :)

end Sys2Proof.Machine
